-- ==== Sys2Proof/Word.lean ====
section
/-!
DEFINITION. The word types of DSG-RAST.
-/

namespace Sys2Proof

/-- A command word (30_encoding.md R100): a value, so it has no byte order. -/
abbrev Word := BitVec 32

/-- A VRAM word, `mbbbbbgg gggrrrrr` (00_scope.md R16). -/
abbrev Pixel := BitVec 16

/-- A colour channel, a texture coordinate or a texture-window byte (00_scope.md R9). -/
abbrev Byte := BitVec 8

end Sys2Proof
end

