-- ==== Sys2Proof/Config.lean ====
section
/-!
DEFINITION. What an implementation of DSG-RAST fixes: the constants of 00_scope.md R7 and the named parameters of
00_scope.md R8 with their defaults.
-/

namespace Sys2Proof.Config

/-- `VRAM_WIDTH` (00_scope.md R7). -/
abbrev vramWidth : Nat := 1024

/-- `VRAM_HEIGHT` (00_scope.md R7). -/
abbrev vramHeight : Nat := 512

/-- The bytes of VRAM, 1 MiB (20_memory.md R70). -/
abbrev vramBytes : Nat := 1048576

/-- `MAX_PRIMITIVE_WIDTH` (00_scope.md R7). -/
abbrev maxPrimitiveWidth : Int := 1024

/-- `MAX_PRIMITIVE_HEIGHT` (00_scope.md R7). -/
abbrev maxPrimitiveHeight : Int := 512

/-- `XY_FRAC`: fraction bits of line and triangle positions (00_scope.md R7). -/
abbrev xyFrac : Nat := 32

/-- `RGB_FRAC`: fraction bits of line colours (00_scope.md R7). -/
abbrev rgbFrac : Nat := 12

/-- `COORD_FBS`: fraction bits of triangle attributes (00_scope.md R7). -/
abbrev coordFbs : Nat := 12

/-- `COORD_POST_PADDING`: padding bits of triangle attributes (00_scope.md R7). -/
abbrev coordPostPadding : Nat := 12

/-- What a byte of VRAM that nothing has written reads as. DESIGN CHOICE, unsafe, log 2: the spec's `VRAM0` is an
input of the model; this is the `VRAM0` of `State.reset`. -/
abbrev unlistedByte : BitVec 8 := 0

/-- One row `dy` of the dither matrix, columns `dx = 0..3`. -/
structure DitherRow where
  c0 : Int
  c1 : Int
  c2 : Int
  c3 : Int
deriving DecidableEq, Repr

/-- `P_DITHER_MATRIX`: a 4 x 4 matrix of integers (00_scope.md R8). -/
structure DitherMatrix where
  r0 : DitherRow
  r1 : DitherRow
  r2 : DitherRow
  r3 : DitherRow
deriving DecidableEq, Repr

/-- `P_QUAD_ORDER`: the vertices of a quad's second triangle (00_scope.md R8, 43_triangle.md R262). -/
inductive QuadOrder where
  | o123
  | o213
deriving DecidableEq, Repr

/-- `P_UNTEX_TRI_DITHER`: whether untextured triangles honour DITHER (00_scope.md R8, 30_encoding.md R114). -/
inductive UntexTriDither where
  | honour
  | off
deriving DecidableEq, Repr

/-- The named parameters of 00_scope.md R8 but `VRAM0`, which is the initial memory. -/
structure Params where
  ditherMatrix   : DitherMatrix
  quadOrder      : QuadOrder
  untexTriDither : UntexTriDither
deriving DecidableEq, Repr

/-- The default matrix of 10_state.md R36. -/
def defaultDitherMatrix : DitherMatrix where
  r0 := ⟨-4, 0, -3, 1⟩
  r1 := ⟨2, -2, 3, -1⟩
  r2 := ⟨-3, 1, -4, 0⟩
  r3 := ⟨3, -1, 2, -2⟩

/-- The defaults of 00_scope.md R8. -/
def defaultParams : Params where
  ditherMatrix := defaultDitherMatrix
  quadOrder := .o123
  untexTriDither := .honour

end Sys2Proof.Config
end

