-- ==== Sys2Proof/Syntax.lean ====
section
/-!
DEFINITION. The commands of DSG-RAST, one constructor per row of spec/opcode_table.json, with every field of
their records (30_encoding.md R101 to R110).
-/

namespace Sys2Proof

/-- `TMODE` (30_encoding.md R110). Code 3 is reserved: refused when `TEX = 1`, ignored when `TEX = 0` (R111, R115). -/
inductive TexMode where
  | palette4
  | palette8
  | direct15
  | reserved
deriving DecidableEq, Repr

/-- `BMODE` (30_encoding.md R110). -/
inductive BlendMode where
  | halfHalf
  | add
  | sub
  | quarterAdd
deriving DecidableEq, Repr

/-- `KIND` (30_encoding.md R102). -/
inductive Kind where
  | rect
  | line
  | tri
  | quad
  | setarea
deriving DecidableEq, Repr

/-- What every draw carries: the header's common flags and modes (30_encoding.md R101) and the four configuration
words (R103). -/
structure DrawCfg where
  trans   : Bool
  ilace   : Bool
  alsb    : Bool
  tmode   : TexMode
  bmode   : BlendMode
  maskAnd : BitVec 16
  maskOr  : BitVec 16
  pageX   : BitVec 10
  pageY   : BitVec 9
  clutX   : BitVec 10
  clutY   : BitVec 9
  winAndX : Byte
  winAndY : Byte
  winOrX  : Byte
  winOrY  : Byte
deriving DecidableEq, Repr

/-- An XY word: two 11-bit two's-complement fields (30_encoding.md R104). -/
structure XY where
  x : BitVec 11
  y : BitVec 11
deriving DecidableEq, Repr

/-- A COLOR word (30_encoding.md R105). -/
structure Color where
  r : Byte
  g : Byte
  b : Byte
deriving DecidableEq, Repr

/-- A UV word (30_encoding.md R106). -/
structure UV where
  u : Byte
  v : Byte
deriving DecidableEq, Repr

/-- A SIZE word (30_encoding.md R107). -/
structure Size where
  w : BitVec 10
  h : BitVec 9
deriving DecidableEq, Repr

/-- A line endpoint, the source's `LineVertex` (30_encoding.md R109). -/
structure LineVertex where
  pos   : XY
  color : Color
deriving DecidableEq, Repr

/-- A polygon vertex, the source's `Vertex` (30_encoding.md R109). -/
structure Vertex where
  pos   : XY
  color : Color
  uv    : UV
deriving DecidableEq, Repr

/-- RECT's own header flags; SHADE and DITHER are forbidden (30_encoding.md R111 order 6). -/
structure RectFlags where
  tex : Bool
  raw : Bool
deriving DecidableEq, Repr

/-- LINE's own header flags; TEX and RAW are forbidden (30_encoding.md R111 order 6). -/
structure LineFlags where
  shade  : Bool
  dither : Bool
deriving DecidableEq, Repr

/-- The header flags of TRI and QUAD (30_encoding.md R101). -/
structure PolyFlags where
  shade  : Bool
  tex    : Bool
  raw    : Bool
  dither : Bool
deriving DecidableEq, Repr

/-- The commands (30_encoding.md R102, R109). -/
inductive Instr where
  | rect (f : RectFlags) (c : DrawCfg) (origin : XY) (size : Size) (color : Color) (uv : UV)
  | line (f : LineFlags) (c : DrawCfg) (p0 p1 : LineVertex)
  | tri (f : PolyFlags) (c : DrawCfg) (v0 v1 v2 : Vertex)
  | quad (f : PolyFlags) (c : DrawCfg) (v0 v1 v2 v3 : Vertex)
  | setarea (left top right bottom : BitVec 16)
deriving DecidableEq, Repr

end Sys2Proof
end

