-- ==== Sys2Proof/WellFormed.lean ====
section
/-!
DEFINITION. Which commands a record can encode without being refused for its fields: the one condition that the
types of Syntax.lean leave open (30_encoding.md R111 order 7).
-/

namespace Sys2Proof

/-- `TEX = 1` needs a texture mode that is not reserved (30_encoding.md R111 order 7, REF_TMODE). -/
def texModeOk (tex : Bool) (m : TexMode) : Bool := !(tex && m == .reserved)

/-- The well-formed commands. -/
def WellFormed : Instr → Bool
  | .rect f c _ _ _ _ => texModeOk f.tex c.tmode
  | .line _ _ _ _ => true
  | .tri f c _ _ _ => texModeOk f.tex c.tmode
  | .quad f c _ _ _ _ => texModeOk f.tex c.tmode
  | .setarea _ _ _ _ => true

end Sys2Proof
end

