-- ==== Sys2Proof/Decode.lean ====
section
/-!
DEFINITION. Decoding a record of command words, refusing by name (30_encoding.md R100 to R118), and the encoder
written from the same tables.
-/

namespace Sys2Proof

/-- The reasons of a refusal (30_encoding.md R111, 60_exceptions.md R304). -/
inductive RefReason where
  | hdrRsv
  | kind
  | len
  | setareaFlags
  | daUnset
  | flags
  | tmode
  | fieldRsv
deriving DecidableEq, Repr

/-- The code that `REFUSED` records (60_exceptions.md R304). -/
def RefReason.code : RefReason → Nat
  | .hdrRsv => 1
  | .kind => 2
  | .len => 3
  | .setareaFlags => 4
  | .daUnset => 5
  | .flags => 6
  | .tmode => 7
  | .fieldRsv => 8

/-- The code of a kind (30_encoding.md R102). -/
def Kind.code : Kind → BitVec 3
  | .rect => 0
  | .line => 1
  | .tri => 2
  | .quad => 3
  | .setarea => 4

/-- The record length of a kind in words (30_encoding.md R102). -/
def Kind.length : Kind → Nat
  | .rect => 9
  | .line => 9
  | .tri => 14
  | .quad => 17
  | .setarea => 3

/-- The kind of a command. -/
def Instr.kind : Instr → Kind
  | .rect _ _ _ _ _ _ => .rect
  | .line _ _ _ _ => .line
  | .tri _ _ _ _ _ => .tri
  | .quad _ _ _ _ _ _ => .quad
  | .setarea _ _ _ _ => .setarea

/-! ### Fields of a word -/

/-- The field of `len` bits from bit `lo` up (00_scope.md R10). -/
def field (w : Word) (lo len : Nat) : BitVec len := w.extractLsb' lo len

/-- Bit `i` of a word as a flag. -/
def flag (w : Word) (i : Nat) : Bool := w.getLsbD i

/-- `TMODE` codes (30_encoding.md R110). -/
def texModeOf (b : BitVec 2) : TexMode :=
  if b = 0 then .palette4 else if b = 1 then .palette8 else if b = 2 then .direct15 else .reserved

/-- `TMODE` codes, the other way (30_encoding.md R110). -/
def TexMode.code : TexMode → BitVec 2
  | .palette4 => 0
  | .palette8 => 1
  | .direct15 => 2
  | .reserved => 3

/-- `BMODE` codes (30_encoding.md R110). -/
def blendModeOf (b : BitVec 2) : BlendMode :=
  if b = 0 then .halfHalf else if b = 1 then .add else if b = 2 then .sub else .quarterAdd

/-- `BMODE` codes, the other way (30_encoding.md R110). -/
def BlendMode.code : BlendMode → BitVec 2
  | .halfHalf => 0
  | .add => 1
  | .sub => 2
  | .quarterAdd => 3

/-- The header's reserved bits [31:14] are clear (30_encoding.md R101). -/
def headerOk (h : Word) : Bool := field h 14 18 == 0

/-- The kind a header names, none for 5, 6 and 7 (30_encoding.md R102). -/
def kindOf (h : Word) : Option Kind :=
  let k := field h 0 3
  if k = 0 then some .rect else if k = 1 then some .line else if k = 2 then some .tri
  else if k = 3 then some .quad else if k = 4 then some .setarea else none

/-! ### Reserved bits of the words (30_encoding.md R103 to R107) -/

/-- The reserved mask of the TPAGE, CLUT and SIZE words. -/
def pageRsv : Word := 0xFE00FC00#32

/-- The reserved mask of an XY word. -/
def xyRsv : Word := 0xF800F800#32

/-- The reserved mask of a COLOR word. -/
def colorRsv : Word := 0xFF000000#32

/-- The reserved mask of a UV word. -/
def uvRsv : Word := 0xFFFF0000#32

/-- No bit of `w` under the mask `m` is set. -/
def clearUnder (m w : Word) : Bool := (w &&& m) == 0

/-- The reserved bits of the configuration words; `w[1]` and `w[4]` have none (30_encoding.md R103). -/
def cfgOk (w2 w3 : Word) : Bool := clearUnder pageRsv w2 && clearUnder pageRsv w3

/-- The reserved bits of a line endpoint's words. -/
def lineVertexOk (xy col : Word) : Bool := clearUnder xyRsv xy && clearUnder colorRsv col

/-- The reserved bits of a polygon vertex's words. -/
def vertexOk (xy col uv : Word) : Bool :=
  clearUnder xyRsv xy && clearUnder colorRsv col && clearUnder uvRsv uv

/-! ### Fields of the words (30_encoding.md R101 to R108) -/

/-- The common part of a draw, from the header and the configuration words (30_encoding.md R101, R103). -/
def cfgOf (h w1 w2 w3 w4 : Word) : DrawCfg where
  trans := flag h 6
  ilace := flag h 8
  alsb := flag h 9
  tmode := texModeOf (field h 10 2)
  bmode := blendModeOf (field h 12 2)
  maskAnd := field w1 0 16
  maskOr := field w1 16 16
  pageX := field w2 0 10
  pageY := field w2 16 9
  clutX := field w3 0 10
  clutY := field w3 16 9
  winAndX := field w4 0 8
  winAndY := field w4 8 8
  winOrX := field w4 16 8
  winOrY := field w4 24 8

/-- An XY word's fields (30_encoding.md R104). -/
def xyOf (w : Word) : XY := ⟨field w 0 11, field w 16 11⟩

/-- A COLOR word's fields (30_encoding.md R105). -/
def colorOf (w : Word) : Color := ⟨field w 0 8, field w 8 8, field w 16 8⟩

/-- A UV word's fields (30_encoding.md R106). -/
def uvOf (w : Word) : UV := ⟨field w 0 8, field w 8 8⟩

/-- A SIZE word's fields (30_encoding.md R107). -/
def sizeOf (w : Word) : Size := ⟨field w 0 10, field w 16 9⟩

/-- A line endpoint from its words (30_encoding.md R109). -/
def lineVertexOf (xy col : Word) : LineVertex := ⟨xyOf xy, colorOf col⟩

/-- A polygon vertex from its words (30_encoding.md R109). -/
def vertexOf (xy col uv : Word) : Vertex := ⟨xyOf xy, colorOf col, uvOf uv⟩

/-- The flags of a RECT header (30_encoding.md R101). -/
def rectFlagsOf (h : Word) : RectFlags := ⟨flag h 4, flag h 5⟩

/-- The flags of a LINE header (30_encoding.md R101). -/
def lineFlagsOf (h : Word) : LineFlags := ⟨flag h 3, flag h 7⟩

/-- The flags of a TRI or QUAD header (30_encoding.md R101). -/
def polyFlagsOf (h : Word) : PolyFlags := ⟨flag h 3, flag h 4, flag h 5, flag h 7⟩

/-! ### The refusal checks and the decoder -/

/-- The first failing check among those of 30_encoding.md R111 that a complete draw record can fail, in R111's
order 5 to 8: the drawing area unset, a flag the kind forbids, a reserved texture mode, a reserved field bit. -/
def drawCheck (daSet badFlags badTmode fieldsOk : Bool) : Option RefReason :=
  if !daSet then some .daUnset
  else if badFlags then some .flags
  else if badTmode then some .tmode
  else if !fieldsOk then some .fieldRsv
  else none

/-- `TEX = 1` with `TMODE = 3` (30_encoding.md R111 order 7). -/
def headerBadTmode (h : Word) : Bool := flag h 4 && field h 10 2 == 3#2

/-- `i` when no check failed, the refusal otherwise. -/
def checked (c : Option RefReason) (i : Instr) (rest : List Word) : Except RefReason (Instr × List Word) :=
  match c with
  | some r => .error r
  | none => .ok (i, rest)

/-- The words after the header of a RECT record (30_encoding.md R109, R111 orders 3 and 5 to 8). -/
def decodeRect (daSet : Bool) (h : Word) : List Word → Except RefReason (Instr × List Word)
  | w1 :: w2 :: w3 :: w4 :: w5 :: w6 :: w7 :: w8 :: rest =>
    checked
      (drawCheck daSet (flag h 3 || flag h 7) (headerBadTmode h)
        (cfgOk w2 w3 && clearUnder xyRsv w5 && clearUnder pageRsv w6 && clearUnder colorRsv w7 && clearUnder uvRsv w8))
      (.rect (rectFlagsOf h) (cfgOf h w1 w2 w3 w4) (xyOf w5) (sizeOf w6) (colorOf w7) (uvOf w8)) rest
  | _ => .error .len

/-- The words after the header of a LINE record (30_encoding.md R109, R111). `TEX` is forbidden, so order 7 cannot
fail. -/
def decodeLine (daSet : Bool) (h : Word) : List Word → Except RefReason (Instr × List Word)
  | w1 :: w2 :: w3 :: w4 :: w5 :: w6 :: w7 :: w8 :: rest =>
    checked
      (drawCheck daSet (flag h 4 || flag h 5) (headerBadTmode h)
        (cfgOk w2 w3 && lineVertexOk w5 w6 && lineVertexOk w7 w8))
      (.line (lineFlagsOf h) (cfgOf h w1 w2 w3 w4) (lineVertexOf w5 w6) (lineVertexOf w7 w8)) rest
  | _ => .error .len

/-- The words after the header of a TRI record (30_encoding.md R109, R111). -/
def decodeTri (daSet : Bool) (h : Word) : List Word → Except RefReason (Instr × List Word)
  | w1 :: w2 :: w3 :: w4 :: a0 :: a1 :: a2 :: b0 :: b1 :: b2 :: c0 :: c1 :: c2 :: rest =>
    checked
      (drawCheck daSet false (headerBadTmode h)
        (cfgOk w2 w3 && vertexOk a0 a1 a2 && vertexOk b0 b1 b2 && vertexOk c0 c1 c2))
      (.tri (polyFlagsOf h) (cfgOf h w1 w2 w3 w4) (vertexOf a0 a1 a2) (vertexOf b0 b1 b2) (vertexOf c0 c1 c2)) rest
  | _ => .error .len

/-- The words after the header of a QUAD record (30_encoding.md R109, R111). -/
def decodeQuad (daSet : Bool) (h : Word) : List Word → Except RefReason (Instr × List Word)
  | w1 :: w2 :: w3 :: w4 :: a0 :: a1 :: a2 :: b0 :: b1 :: b2 :: c0 :: c1 :: c2 :: d0 :: d1 :: d2 :: rest =>
    checked
      (drawCheck daSet false (headerBadTmode h)
        (cfgOk w2 w3 && vertexOk a0 a1 a2 && vertexOk b0 b1 b2 && vertexOk c0 c1 c2 && vertexOk d0 d1 d2))
      (.quad (polyFlagsOf h) (cfgOf h w1 w2 w3 w4) (vertexOf a0 a1 a2) (vertexOf b0 b1 b2) (vertexOf c0 c1 c2)
        (vertexOf d0 d1 d2)) rest
  | _ => .error .len

/-- The words after the header of a SETAREA record (30_encoding.md R108, R111 orders 3 and 4). -/
def decodeSetarea (h : Word) : List Word → Except RefReason (Instr × List Word)
  | w1 :: w2 :: rest =>
    if h = 4#32 then .ok (.setarea (field w1 0 16) (field w1 16 16) (field w2 0 16) (field w2 16 16), rest)
    else .error .setareaFlags
  | _ => .error .len

/-- Decode the first record of a list of words, given whether `DA.SET` is 1: the command and the words after it, or the
reason of the first failing check of 30_encoding.md R111, in R111's order. An empty list has no header: REF_LEN
(DESIGN CHOICE, safe, log 8). -/
def decodeWith (daSet : Bool) : List Word → Except RefReason (Instr × List Word)
  | [] => .error .len
  | h :: ws =>
    if headerOk h then
      match kindOf h with
      | some .rect => decodeRect daSet h ws
      | some .line => decodeLine daSet h ws
      | some .tri => decodeTri daSet h ws
      | some .quad => decodeQuad daSet h ws
      | some .setarea => decodeSetarea h ws
      | none => .error .kind
    else .error .hdrRsv

/-- Decode a record on the record alone: every check of 30_encoding.md R111 but order 5, which reads `DA.SET`. -/
def decode (ws : List Word) : Except RefReason (Instr × List Word) := decodeWith true ws

/-! ### The encoder -/

/-- A header word (30_encoding.md R101). -/
def encodeHeader (k : Kind) (shade tex raw dither : Bool) (c : DrawCfg) : Word :=
  0#18 ++ c.bmode.code ++ c.tmode.code ++ BitVec.ofBool c.alsb ++ BitVec.ofBool c.ilace ++ BitVec.ofBool dither ++
    BitVec.ofBool c.trans ++ BitVec.ofBool raw ++ BitVec.ofBool tex ++ BitVec.ofBool shade ++ k.code

/-- The MASK word `w[1]` (30_encoding.md R103). -/
def encodeMask (c : DrawCfg) : Word := c.maskOr ++ c.maskAnd

/-- A TPAGE or CLUT word, or a SIZE word: a u9 over a u10 (30_encoding.md R103, R107). -/
def encodePage (x : BitVec 10) (y : BitVec 9) : Word := 0#7 ++ y ++ 0#6 ++ x

/-- The TWIN word `w[4]` (30_encoding.md R103). -/
def encodeWindow (c : DrawCfg) : Word := c.winOrY ++ c.winOrX ++ c.winAndY ++ c.winAndX

/-- The four configuration words (30_encoding.md R103). -/
def encodeCfg (c : DrawCfg) : List Word :=
  [encodeMask c, encodePage c.pageX c.pageY, encodePage c.clutX c.clutY, encodeWindow c]

/-- An XY word (30_encoding.md R104). -/
def encodeXY (p : XY) : Word := 0#5 ++ p.y ++ 0#5 ++ p.x

/-- A COLOR word (30_encoding.md R105). -/
def encodeColor (c : Color) : Word := 0#8 ++ c.b ++ c.g ++ c.r

/-- A UV word (30_encoding.md R106). -/
def encodeUV (t : UV) : Word := 0#16 ++ t.v ++ t.u

/-- A line endpoint's words (30_encoding.md R109). -/
def encodeLineVertex (v : LineVertex) : List Word := [encodeXY v.pos, encodeColor v.color]

/-- A polygon vertex's words (30_encoding.md R109). -/
def encodeVertex (v : Vertex) : List Word := [encodeXY v.pos, encodeColor v.color, encodeUV v.uv]

/-- The record of a command (30_encoding.md R101 to R109). -/
def encode : Instr → List Word
  | .rect f c o sz col uv =>
    encodeHeader .rect false f.tex f.raw false c :: encodeCfg c ++
      [encodeXY o, encodePage sz.w sz.h, encodeColor col, encodeUV uv]
  | .line f c p0 p1 =>
    encodeHeader .line f.shade false false f.dither c :: encodeCfg c ++ encodeLineVertex p0 ++ encodeLineVertex p1
  | .tri f c v0 v1 v2 =>
    encodeHeader .tri f.shade f.tex f.raw f.dither c :: encodeCfg c ++ encodeVertex v0 ++ encodeVertex v1 ++
      encodeVertex v2
  | .quad f c v0 v1 v2 v3 =>
    encodeHeader .quad f.shade f.tex f.raw f.dither c :: encodeCfg c ++ encodeVertex v0 ++ encodeVertex v1 ++
      encodeVertex v2 ++ encodeVertex v3
  | .setarea l t r b => [4#32, t ++ l, b ++ r]

/-! ### The opcode table's numbering of the bits -/

/-- The words of an instruction whose bits are `w`: bit 0 the least significant of the first word, later words counting
on, every bit from `nbits` up 0, as many words as the longest record has. -/
def tableWords (nbits w : Nat) : List Word :=
  (List.range Kind.quad.length).map fun k => BitVec.ofNat 32 ((w % 2 ^ nbits) >>> (32 * k))

/-- The instruction the decoder reads from the bits `w` of an opcode-table row. -/
def decodeTableWord (nbits w : Nat) : Option Instr :=
  match decode (tableWords nbits w) with
  | .ok (i, _) => some i
  | .error _ => none

end Sys2Proof
end

