-- ==== Sys2Proof/Machine/State.lean ====
section
/-!
DEFINITION. The state of DSG-RAST (10_state.md R30), the ways a step can stop, and the machine right after reset
(10_state.md R53, 70_reset_and_hazards.md R330).
-/

namespace Sys2Proof.Machine

open Sys2Proof.Config

/-- VRAM as bytes (20_memory.md R70, R74): address and byte, addresses strictly rising, no byte listed that an unlisted
address reads as. `Memory.wf` in Ops.lean says so. -/
abbrev Memory := List Host.Cell

/-- The drawing-area register `DA`, numbered CR0 (10_state.md R32); the bounds are s16, read through `toInt`. -/
structure DrawArea where
  left   : BitVec 16
  top    : BitVec 16
  right  : BitVec 16
  bottom : BitVec 16
  set    : Bool
deriving DecidableEq, Repr

/-- The position of a running command's iteration (10_state.md R40): the row and column of a rectangle, the step of a
line, or which triangle, which half, the row and the column. -/
inductive SeqPos where
  | start
  | rect (row col : Nat)
  | line (step : Nat)
  | tri (second : Bool) (half : Nat) (row col : Int)
deriving DecidableEq, Repr

/-- The sequencer `SEQ` (10_state.md R40). -/
inductive Seq where
  | idle
  | busy (pos : SeqPos)
  | halted
deriving DecidableEq, Repr

/-- The codes of FAULT (60_exceptions.md R303). -/
inductive FaultCode where
  | outOfVram
deriving DecidableEq, Repr

/-- The sticky mark `FAULT = (code, x, y, KIND)` (60_exceptions.md R303). -/
structure FaultMark where
  code : FaultCode
  x    : Int
  y    : Int
  kind : Kind
deriving DecidableEq, Repr

/-- The sticky mark `REFUSED`: the reason and the record's position in the HOST's stream (60_exceptions.md R304). -/
structure RefusalMark where
  reason   : RefReason
  position : Nat
deriving DecidableEq, Repr

/-- What the HOST does to the block (70_reset_and_hazards.md R333): hand over a unit of command words (one record, or
several one after the other, 30_encoding.md R100), reset the block, or write a VRAM word. Its reads change nothing. -/
inductive HostAction where
  | submit (ws : List Word)
  | reset
  | writeVram (x : BitVec 10) (y : BitVec 9) (v : Pixel)
deriving DecidableEq, Repr

/-- The state of the machine. `mem`, `da`, `cl`, `seq`, `fault` and `refused` are the spec's (10_state.md R30);
`params.ditherMatrix` is the content of `DITHER_LUT` (R36) and `params` the named parameters of 00_scope.md R8, which
nothing writes (log 4). `host` and `recordIndex` are the HOST's side: its pending actions and its position in its
stream (log 6). The datapath registers are local values, as 10_state.md R51 asks (log 5). -/
structure State where
  mem         : Memory
  da          : DrawArea
  params      : Params
  cl          : Option Instr
  seq         : Seq
  fault       : Option FaultMark
  refused     : Option RefusalMark
  host        : List HostAction
  recordIndex : Nat
deriving DecidableEq, Repr

/-- How a step stops without a next state. -/
inductive Fault where
  /-- Raised by a command, and by `step` when the HOST offers neither a reset nor a VRAM write, while `SEQ = HALTED`: the
  engine is stuck until reset (10_state.md R40, 93_implementation_defined.md U19). Safe. -/
  | halted
  /-- Raised by a command and by `step` while `SEQ = BUSY`: the spec gives the HOST no transition there
  (70_reset_and_hazards.md R333, 93_implementation_defined.md U20). Safe: no step from reset ends in `BUSY`. -/
  | busy
deriving DecidableEq, Repr

/-- How a step declines an instruction that has no meaning. A refused command of the spec is a next state with the
`REFUSED` mark (60_exceptions.md R304), not one of these. -/
inductive Refusal where
  /-- Raised by an arm of `exec` that has no meaning yet: none. Safe. -/
  | notModelled (mnemonic : String)
deriving DecidableEq, Repr

/-- `DA` after reset: `DA.SET = 0` (10_state.md R53). The spec gives the bounds no value: 0 here (DESIGN CHOICE,
unsafe, log 3). -/
def DrawArea.reset : DrawArea where
  left := 0
  top := 0
  right := 0
  bottom := 0
  set := false

/-- The machine after power-up and reset, over the VRAM contents `vram0` and the parameters `p`
(70_reset_and_hazards.md R330, R331; 00_scope.md R8). The HOST has nothing pending (DESIGN CHOICE, log 6). -/
def State.powerUp (vram0 : Memory) (p : Params) : State where
  mem := vram0
  da := DrawArea.reset
  params := p
  cl := none
  seq := .idle
  fault := none
  refused := none
  host := []
  recordIndex := 0

/-- The machine right after reset (10_state.md R53), with `VRAM0` all zero (DESIGN CHOICE, unsafe, log 2) and the default
parameters (00_scope.md R8). -/
def State.reset : State := State.powerUp [] defaultParams

end Sys2Proof.Machine
end

