-- ==== Sys2Proof/Machine/Ops.lean ====
section
/-!
DEFINITION. The named operations over memory and the registers: VRAM accesses, the drawing area, the command
latch and the sequencer, the two marks (taking a fault, refusing) and the return from them (the HOST's reset).
-/

namespace Sys2Proof.Machine

open Sys2Proof.Config

/-! ### VRAM -/

/-- The byte at an address. -/
def Memory.read : Memory → Nat → BitVec 8
  | [], _ => unlistedByte
  | (b, v) :: rest, a => if b = a then v else Memory.read rest a

/-- Store a byte, keeping the canonical form. -/
def Memory.write : Memory → Nat → BitVec 8 → Memory
  | [], a, v => if v = unlistedByte then [] else [(a, v)]
  | (b, w) :: rest, a, v =>
    if b < a then (b, w) :: Memory.write rest a v
    else if b = a then (if v = unlistedByte then rest else (a, v) :: rest)
    else if v = unlistedByte then (b, w) :: rest else (a, v) :: (b, w) :: rest

/-- From the address `lo` up: addresses strictly rising, inside VRAM, and no entry equal to what an unlisted address
reads as. -/
def Memory.wfFrom : Nat → Memory → Bool
  | _, [] => true
  | lo, (b, v) :: rest =>
    decide (lo ≤ b) && decide (b < vramBytes) && decide (v ≠ unlistedByte) && Memory.wfFrom (b + 1) rest

/-- The canonical form of memory. -/
def Memory.wf (m : Memory) : Bool := Memory.wfFrom 0 m

/-- `MemRead(addr, 2)` (00_scope.md R13), low byte first (20_memory.md R74). -/
def Memory.read16 (m : Memory) (a : Nat) : BitVec 16 := m.read (a + 1) ++ m.read a

/-- `MemWrite(addr, 2, v)` (00_scope.md R13), low byte first (20_memory.md R74). -/
def Memory.write16 (m : Memory) (a : Nat) (v : BitVec 16) : Memory :=
  (m.write a (v.extractLsb' 0 8)).write (a + 1) (v.extractLsb' 8 8)

/-- The byte address of the word `(x, y)` (20_memory.md R70). -/
def vramAddr (x y : Nat) : Nat := 2 * (vramWidth * y + x)

/-- `VRead(x, y)` (00_scope.md R13). -/
def Memory.vread (m : Memory) (x y : Nat) : Pixel := m.read16 (vramAddr x y)

/-- `VWrite(x, y, v)` (00_scope.md R13). -/
def Memory.vwrite (m : Memory) (x y : Nat) (v : Pixel) : Memory := m.write16 (vramAddr x y) v

/-- The VRAM word `(x, y)` of a state, what the HOST reads (70_reset_and_hazards.md R333). -/
def State.vram (s : State) (x y : Nat) : Pixel := s.mem.vread x y

/-- The byte at an address of the HOST's byte view (20_memory.md R74). -/
def State.hostByte (s : State) (a : Nat) : BitVec 8 := s.mem.read a

/-- The state with another VRAM. -/
def State.withMem (s : State) (m : Memory) : State := { s with mem := m }

/-! ### The drawing area, the latch and the sequencer -/

/-- SETAREA's write of `DA`, all five fields together (44_control.md R290). -/
def State.writeArea (s : State) (left top right bottom : BitVec 16) : State :=
  { s with da := { left := left, top := top, right := right, bottom := bottom, set := true } }

/-- Accept a command: latch it in full and leave IDLE (10_state.md R38, R40; 20_memory.md R87). -/
def State.latch (s : State) (i : Instr) : State := { s with cl := some i, seq := .busy .start }

/-- Advance the position of the running command (10_state.md R40). -/
def State.atPos (s : State) (p : SeqPos) : State := { s with seq := .busy p }

/-- The end of a command: back to IDLE with the latch empty (10_state.md R38, R40), but a halted engine stays so. -/
def State.finish (s : State) : State :=
  match s.seq with
  | .halted => s
  | _ => { s with cl := none, seq := .idle }

/-! ### Taking a fault, refusing, and the reset that returns from them -/

/-- The code that `FAULT` records (60_exceptions.md R303). -/
def FaultCode.code : FaultCode → Nat
  | .outOfVram => 1

/-- `raise Fault(OutOfVRAM(x, y))` (60_exceptions.md R303): `FAULT = (1, x, y, KIND)` and `SEQ = HALTED`; the latch is
empty because the command has ended (10_state.md R38). -/
def State.takeFault (s : State) (k : Kind) (x y : Int) : State :=
  { s with fault := some { code := .outOfVram, x := x, y := y, kind := k }, seq := .halted, cl := none }

/-- `refuse(reason)` (60_exceptions.md R304): `REFUSED` records the reason and the record's position, `SEQ = HALTED`. -/
def State.refuse (s : State) (r : RefReason) : State :=
  { s with refused := some { reason := r, position := s.recordIndex }, seq := .halted, cl := none }

/-- The HOST's reset (70_reset_and_hazards.md R330), the only way out of HALTED: VRAM and the parameters are not changed. -/
def State.hostReset (s : State) : State :=
  { s with da := DrawArea.reset, cl := none, seq := .idle, fault := none, refused := none }

/-! ### The HOST's side -/

/-- The HOST's pending actions replaced. -/
def State.withHost (s : State) (h : List HostAction) : State := { s with host := h }

/-- The HOST's position in its stream moves past one record (60_exceptions.md R304). -/
def State.advance (s : State) : State := { s with recordIndex := s.recordIndex + 1 }

/-- The HOST's write of one VRAM word (70_reset_and_hazards.md R333). -/
def State.hostWrite (s : State) (x : BitVec 10) (y : BitVec 9) (v : Pixel) : State :=
  s.withMem (s.mem.vwrite x.toNat y.toNat v)

/-- Run a command whose body is `body` if the engine accepts commands: `SEQ` must be IDLE (10_state.md R40,
70_reset_and_hazards.md R333). -/
def whenIdle (s : State) (body : Host.Outcome State Fault Refusal) : Host.Outcome State Fault Refusal :=
  match s.seq with
  | .idle => body
  | .busy _ => .fault .busy
  | .halted => .fault .halted

end Sys2Proof.Machine
end

