-- ==== Sys2Proof/Machine/Control.lean ====
section
/-!
DEFINITION. SETAREA (44_control.md), the block's only system command.
-/

namespace Sys2Proof.Machine

/-- SETAREA (44_control.md R290): all five fields of `DA` together, no VRAM access, accepted whether or not
`DA.SET = 1`. -/
def execSetarea (left top right bottom : BitVec 16) (s : State) : Host.Outcome State Fault Refusal :=
  whenIdle s (.next ((s.latch (.setarea left top right bottom)).writeArea left top right bottom).finish)

end Sys2Proof.Machine
end

