-- ==== Sys2Proof/Machine/Operands.lean ====
section
/-!
DEFINITION. The arithmetic primitives of 00_scope.md R10 to R12, how a rule reads its operands, and the pixel
channels of R16.
-/

namespace Sys2Proof

/-- The x of a position, `sext_11` (30_encoding.md R104). -/
def XY.xInt (p : XY) : Int := p.x.toInt

/-- The y of a position, `sext_11` (30_encoding.md R104). -/
def XY.yInt (p : XY) : Int := p.y.toInt

namespace Machine

/-- `a >> n`: the floor of `a / 2^n` (00_scope.md R11). -/
def asr (a : Int) (n : Nat) : Int := a / 2 ^ n

/-- `a & (2^n - 1)` on the two's-complement expansion of `a` (00_scope.md R11). -/
def lowBits (a : Int) (n : Nat) : Int := a % 2 ^ n

/-- `tdiv(a, b)`: the quotient truncated toward zero (00_scope.md R12). -/
def tdiv (a b : Int) : Int := a.tdiv b

/-- `tdiv` of a numerator moved away from zero by `b - 1`, which rounds away from zero; a numerator 0 is not moved
(00_scope.md R12, 42_line.md R203, 43_triangle.md R237). -/
def divAway (a b : Int) : Int :=
  if a < 0 then tdiv (a - (b - 1)) b
  else if 0 < a then tdiv (a + (b - 1)) b
  else tdiv a b

/-- `wrap32` of an integer, as a write of a u32 register stores it (00_scope.md R10). -/
def wrap32 (a : Int) : BitVec 32 := BitVec.ofInt 32 a

/-- The low 8 bits of an integer. -/
def wrap8 (a : Int) : Byte := BitVec.ofInt 8 a

/-- A colour or texture byte as an integer. -/
def byteInt (b : Byte) : Int := (b.toNat : Int)

/-- `DA.LEFT` as an integer (10_state.md R32). -/
def DrawArea.l (a : DrawArea) : Int := a.left.toInt

/-- `DA.TOP` as an integer (10_state.md R32). -/
def DrawArea.t (a : DrawArea) : Int := a.top.toInt

/-- `DA.RIGHT` as an integer (10_state.md R32). -/
def DrawArea.r (a : DrawArea) : Int := a.right.toInt

/-- `DA.BOTTOM` as an integer (10_state.md R32). -/
def DrawArea.b (a : DrawArea) : Int := a.bottom.toInt

/-- `R(p)` (00_scope.md R16). -/
def red (p : Pixel) : BitVec 5 := p.extractLsb' 0 5

/-- `G(p)` (00_scope.md R16). -/
def green (p : Pixel) : BitVec 5 := p.extractLsb' 5 5

/-- `B(p)` (00_scope.md R16). -/
def blue (p : Pixel) : BitVec 5 := p.extractLsb' 10 5

/-- `M(p)` (00_scope.md R16). -/
def maskBit (p : Pixel) : Bool := p.getLsbD 15

/-- `pack(r, g, b, m)` (00_scope.md R16). -/
def pack (r g b : BitVec 5) (m : Bool) : Pixel := BitVec.ofBool m ++ b ++ g ++ r

end Machine

end Sys2Proof
end

