-- ==== Sys2Proof/Machine/Flags.lean ====
section
/-!
DEFINITION. Every flag computation: the effective flags of each command (30_encoding.md R112 to R114) and the tests
that skip a row or a pixel (41_rectangle.md R181, R182; 42_line.md R209; 43_triangle.md R252).
-/

namespace Sys2Proof.Machine

open Sys2Proof.Config

/-- The effective flags `TEX_e`, `RAW_e`, `TRANS_e`, `DITH_e`, `SHADE_e`. -/
structure EffFlags where
  tex   : Bool
  raw   : Bool
  trans : Bool
  dith  : Bool
  shade : Bool
deriving DecidableEq, Repr

/-- The effective flags of RECT (30_encoding.md R112). -/
def rectEff (f : RectFlags) (c : DrawCfg) : EffFlags where
  tex := f.tex
  raw := f.tex && f.raw
  trans := c.trans
  dith := false
  shade := false

/-- The effective flags of LINE (30_encoding.md R113). -/
def lineEff (f : LineFlags) (c : DrawCfg) : EffFlags where
  tex := false
  raw := false
  trans := c.trans
  dith := f.dither
  shade := f.shade

/-- The effective flags of TRI and QUAD (30_encoding.md R114). -/
def polyEff (p : UntexTriDither) (f : PolyFlags) (c : DrawCfg) : EffFlags where
  tex := f.tex
  raw := f.tex && f.raw
  trans := c.trans
  dith := f.dither && !(f.tex && f.raw) && (f.tex || p == .honour)
  shade := f.shade

/-- Interlace masks row `y`: `ILACE = 1` and `(y & 1) = ALSB` (41_rectangle.md R181). -/
def interlaced (c : DrawCfg) (y : Int) : Bool := c.ilace && lowBits y 1 == (if c.alsb then 1 else 0)

/-- `DA.TOP <= y <= DA.BOTTOM`. -/
def DrawArea.hasRow (a : DrawArea) (y : Int) : Bool := decide (a.t ≤ y) && decide (y ≤ a.b)

/-- `DA.LEFT <= x <= DA.RIGHT`. -/
def DrawArea.hasCol (a : DrawArea) (x : Int) : Bool := decide (a.l ≤ x) && decide (x ≤ a.r)

/-- The coordinate lies in VRAM (40_pixel_shader.md R160). -/
def inVram (x y : Int) : Bool :=
  decide (0 ≤ x) && decide (x < vramWidth) && decide (0 ≤ y) && decide (y < vramHeight)

end Sys2Proof.Machine
end

