-- ==== Sys2Proof/Machine/Shader.lean ====
section
/-!
DEFINITION. The pixel shader, the per-pixel step every draw shares (40_pixel_shader.md), and the loop that shades the
pixels of a command in their order.
-/

namespace Sys2Proof.Machine

open Sys2Proof.Config

/-- One call `Shade(x, y, r, g, b, tu, tv)` (40_pixel_shader.md R140), with the position of the iteration that makes
it (10_state.md R40). -/
structure Frag where
  pos : SeqPos
  x   : Int
  y   : Int
  r   : Byte
  g   : Byte
  b   : Byte
  u   : Byte
  v   : Byte
deriving DecidableEq, Repr

/-- What the shader reads besides VRAM (40_pixel_shader.md R140): the effective flags, the latched configuration and
the dither ROM. -/
structure Shader where
  eff    : EffFlags
  cfg    : DrawCfg
  dither : DitherMatrix
deriving DecidableEq, Repr

/-! ### The dither ROM -/

/-- Column `dx` of a row of the dither matrix. -/
def ditherColumn (r : DitherRow) (dx : Nat) : Int :=
  if dx = 0 then r.c0 else if dx = 1 then r.c1 else if dx = 2 then r.c2 else r.c3

/-- `P_DITHER_MATRIX[dy][dx]`. -/
def ditherOffset (m : DitherMatrix) (dy dx : Nat) : Int :=
  ditherColumn (if dy = 0 then m.r0 else if dy = 1 then m.r1 else if dy = 2 then m.r2 else m.r3) dx

/-- `clamp(a, lo, hi)` (10_state.md R36). -/
def clamp (a lo hi : Int) : Int := min hi (max lo a)

/-- `DITHER_LUT[dy][dx][v]` (10_state.md R35, R36). -/
def ditherLut (m : DitherMatrix) (dy dx v : Nat) : BitVec 5 :=
  BitVec.ofInt 5 (clamp (asr ((v : Int) + ditherOffset m dy dx) 3) 0 31)

/-- The dither coordinate `(DY, DX)` (40_pixel_shader.md R146). -/
def ditherCoord (dith : Bool) (x y : Int) : Nat × Nat :=
  if dith then ((lowBits y 2).toNat, (lowBits x 2).toNat) else (2, 3)

/-! ### Texture sampling -/

/-- `TU` after the texture window (40_pixel_shader.md R141). -/
def windowU (c : DrawCfg) (tu : Byte) : Byte := (tu &&& c.winAndX) ||| c.winOrX

/-- `TV` after the texture window (40_pixel_shader.md R141). -/
def windowV (c : DrawCfg) (tv : Byte) : Byte := (tv &&& c.winAndY) ||| c.winOrY

/-- The texture-page word `ox` columns right of the page base, wrapped modulo (1024, 512) (20_memory.md R71). -/
def pageCoord (c : DrawCfg) (ox : Nat) (v : Byte) : Nat × Nat :=
  ((c.pageX.toNat + ox) % vramWidth, (c.pageY.toNat + v.toNat) % vramHeight)

/-- The palette entry `idx`, wrapped in x only (20_memory.md R71). -/
def clutCoord (c : DrawCfg) (idx : Nat) : Nat × Nat := ((c.clutX.toNat + idx) % vramWidth, c.clutY.toNat)

/-- The palette index of a 4-bit page word, least significant first (20_memory.md R75, 40_pixel_shader.md R142). -/
def index4 (w : Pixel) (u : Byte) : Nat := (w.toNat >>> (4 * (u.toNat % 4))) % 16

/-- The palette index of an 8-bit page word, least significant first (20_memory.md R75, 40_pixel_shader.md R143). -/
def index8 (w : Pixel) (u : Byte) : Nat := (w.toNat >>> (8 * (u.toNat % 2))) % 256

/-- The coordinates of the VRAM words a texel fetch reads, in order: the page word, and in the palette modes the
palette entry it selects (40_pixel_shader.md R142 to R144). The last one is the texel. The reserved mode reads
nothing: no draw with `TEX = 1` runs in it (30_encoding.md R111 order 7). -/
def texelReads (c : DrawCfg) (m : Memory) (u v : Byte) : List (Nat × Nat) :=
  match c.tmode with
  | .palette4 =>
    let p := pageCoord c (u.toNat / 4) v
    [p, clutCoord c (index4 (m.vread p.1 p.2) u)]
  | .palette8 =>
    let p := pageCoord c (u.toNat / 2) v
    [p, clutCoord c (index8 (m.vread p.1 p.2) u)]
  | .direct15 => [pageCoord c u.toNat v]
  | .reserved => []

/-- The texel at a texture coordinate already windowed (40_pixel_shader.md R142 to R144). -/
def fetchTexel (c : DrawCfg) (m : Memory) (u v : Byte) : Pixel :=
  match c.tmode with
  | .palette4 =>
    let p := pageCoord c (u.toNat / 4) v
    let q := clutCoord c (index4 (m.vread p.1 p.2) u)
    m.vread q.1 q.2
  | .palette8 =>
    let p := pageCoord c (u.toNat / 2) v
    let q := clutCoord c (index8 (m.vread p.1 p.2) u)
    m.vread q.1 q.2
  | .direct15 =>
    let p := pageCoord c u.toNat v
    m.vread p.1 p.2
  | .reserved => 0

/-! ### Foreground colour -/

/-- A modulated texel (40_pixel_shader.md R147); `lut` is `DITHER_LUT[DY][DX]`. -/
def modulate (lut : Nat → BitVec 5) (texel : Pixel) (r g b : Byte) : Pixel :=
  pack (lut (((red texel).toNat * r.toNat) >>> 4)) (lut (((green texel).toNat * g.toNat) >>> 4))
    (lut (((blue texel).toNat * b.toNat) >>> 4)) (maskBit texel)

/-- An untextured colour (40_pixel_shader.md R149). -/
def flatColor (lut : Nat → BitVec 5) (trans : Bool) (r g b : Byte) : Pixel :=
  pack (lut r.toNat) (lut g.toNat) (lut b.toNat) trans

/-- The foreground colour, none when the texel is 0 (40_pixel_shader.md R145 to R149). -/
def foreground (sh : Shader) (m : Memory) (f : Frag) : Option Pixel :=
  let d := ditherCoord sh.eff.dith f.x f.y
  let lut := ditherLut sh.dither d.1 d.2
  if sh.eff.tex then
    let texel := fetchTexel sh.cfg m (windowU sh.cfg f.u) (windowV sh.cfg f.v)
    if texel = 0 then none
    else if sh.eff.raw then some texel
    else some (modulate lut texel f.r f.g f.b)
  else some (flatColor lut sh.eff.trans f.r f.g f.b)

/-! ### Blending -/

/-- HalfHalf, before `wrap16` (40_pixel_shader.md R152). -/
def blendHalf (fg bg : Nat) : Nat :=
  let bg' := bg ||| 0x8000
  ((fg + bg') - ((fg ^^^ bg') &&& 0x0421)) >>> 1

/-- Add, before `wrap16` (40_pixel_shader.md R153). -/
def blendAdd (fg bg : Nat) : Nat :=
  let bg' := bg &&& 0x7FFF
  let sum := fg + bg'
  let carry := (sum - ((fg ^^^ bg') &&& 0x8421)) &&& 0x8420
  (sum - carry) ||| (carry - (carry >>> 5))

/-- Sub, before `wrap16` (40_pixel_shader.md R154). -/
def blendSub (fg bg : Nat) : Nat :=
  let bg' := bg ||| 0x8000
  let fg' := fg &&& 0x7FFF
  let diff := bg' + 0x108420 - fg'
  let borrow := (diff - ((bg' ^^^ fg') &&& 0x108420)) &&& 0x108420
  (diff - borrow) &&& (borrow - (borrow >>> 5))

/-- QuarterAdd, before `wrap16` (40_pixel_shader.md R155). -/
def blendQuarter (fg bg : Nat) : Nat := blendAdd (((fg >>> 2) &&& 0x1CE7) ||| 0x8000) (bg &&& 0x7FFF)

/-- `Blend_BMODE(COLOR, BG)` with `wrap16` (40_pixel_shader.md R151 to R155). -/
def blend (mode : BlendMode) (fg bg : Pixel) : Pixel :=
  BitVec.ofNat 16
    (match mode with
      | .halfHalf => blendHalf fg.toNat bg.toNat
      | .add => blendAdd fg.toNat bg.toNat
      | .sub => blendSub fg.toNat bg.toNat
      | .quarterAdd => blendQuarter fg.toNat bg.toNat)

/-- The colour after the blend stage (40_pixel_shader.md R151, R156). -/
def blended (sh : Shader) (fg bg : Pixel) : Pixel :=
  if sh.eff.trans && (maskBit fg || !sh.eff.tex) then
    if sh.eff.tex then blend sh.cfg.bmode fg bg else blend sh.cfg.bmode fg bg &&& 0x7FFF
  else fg

/-! ### The whole shader -/

/-- The word a pixel inside VRAM is given, none when the pixel is dropped (40_pixel_shader.md R145 to R157, in the
order of R159). -/
def pixelWord (sh : Shader) (m : Memory) (f : Frag) : Option Pixel :=
  match foreground sh m f with
  | none => none
  | some fg =>
    let bg := m.vread f.x.toNat f.y.toNat
    if bg &&& sh.cfg.maskAnd ≠ 0 then none else some (blended sh fg bg ||| sh.cfg.maskOr)

/-- VRAM after the shader's call at a pixel inside VRAM (40_pixel_shader.md R159). -/
def shadeMem (sh : Shader) (m : Memory) (f : Frag) : Memory :=
  match pixelWord sh m f with
  | none => m
  | some w => m.vwrite f.x.toNat f.y.toNat w

/-- Shade the pixels of a command of kind `k` in their order (20_memory.md R80). A pixel outside VRAM faults before any
access and ends the command (40_pixel_shader.md R160). -/
def drawFrags (k : Kind) (sh : Shader) : List Frag → State → State
  | [], s => s
  | f :: fs, s =>
    let s := s.atPos f.pos
    if inVram f.x f.y then drawFrags k sh fs (s.withMem (shadeMem sh s.mem f)) else s.takeFault k f.x f.y

/-- Run a draw command: refused while `DA.SET = 0` (10_state.md R33) and for a reserved texture mode (30_encoding.md R111
order 7); otherwise latched, its pixels shaded, and ended. The two checks repeat the decoder's for a command that
reaches `exec` without it (log 13). -/
def execDraw (i : Instr) (sh : Shader) (frags : List Frag) (s : State) : Host.Outcome State Fault Refusal :=
  whenIdle s
    (if !s.da.set then .next (s.refuse .daUnset)
    else if !WellFormed i then .next (s.refuse .tmode)
    else .next (drawFrags i.kind sh frags (s.latch i)).finish)

end Sys2Proof.Machine
end

