-- ==== Sys2Proof/Machine/Line.lean ====
section
/-!
DEFINITION. LINE (42_line.md): the datapath registers, the pixels it shades, in order, and its meaning.
-/

namespace Sys2Proof.Machine

open Sys2Proof.Config

/-- The line engine's registers (10_state.md R43). Their values stay inside the widths R43 gives, so they are held as
integers (DEDUCED, safe, log 5). -/
structure LineRegs where
  lp0  : LineVertex
  lp1  : LineVertex
  k    : Int
  dxdk : Int
  dydk : Int
  drdk : Int
  dgdk : Int
  dbdk : Int
  curx : Int
  cury : Int
  curr : Int
  curg : Int
  curb : Int
  i    : Nat
deriving DecidableEq, Repr

/-- `dx = |x1 - x0|` on the endpoints as given (42_line.md R201). -/
def lineDx (p0 p1 : LineVertex) : Int := ((p1.pos.xInt - p0.pos.xInt).natAbs : Int)

/-- `dy = |y1 - y0|` on the endpoints as given (42_line.md R201). -/
def lineDy (p0 p1 : LineVertex) : Int := ((p1.pos.yInt - p0.pos.yInt).natAbs : Int)

/-- `K = max(dx, dy)` (42_line.md R201). -/
def lineK (p0 p1 : LineVertex) : Int := max (lineDx p0 p1) (lineDy p0 p1)

/-- The size rejection (42_line.md R201). -/
def lineTooLong (p0 p1 : LineVertex) : Bool :=
  decide (maxPrimitiveWidth ≤ lineDx p0 p1) || decide (maxPrimitiveHeight ≤ lineDy p0 p1)

/-- The endpoints after the canonical swap (42_line.md R202). -/
def canonical (p0 p1 : LineVertex) : LineVertex × LineVertex :=
  if p1.pos.xInt ≤ p0.pos.xInt ∧ 0 < lineK p0 p1 then (p1, p0) else (p0, p1)

/-- `StepXY(d, K)`, 0 for a line of length 0 (42_line.md R203, R205). -/
def stepXY (d k : Int) : Int := if 0 < k then divAway (d * 2 ^ xyFrac) k else 0

/-- A channel's step, 0 for a flat line and for a line of length 0 (42_line.md R204, R205). -/
def stepColor (shade : Bool) (c0 c1 : Byte) (k : Int) : Int :=
  if shade = true ∧ 0 < k then tdiv ((byteInt c1 - byteInt c0) * 2 ^ rgbFrac) k else 0

/-- The start of `CURX` (42_line.md R207). -/
def startX (x : Int) : Int := x * 2 ^ xyFrac + 2 ^ 31 - 1024

/-- The start of `CURY` (42_line.md R207). -/
def startY (y dydk : Int) : Int := y * 2 ^ xyFrac + 2 ^ 31 - (if dydk < 0 then 1024 else 0)

/-- The start of a colour accumulator, `(c << 12) | 2048` (42_line.md R207). -/
def startColor (c : Byte) : Int := byteInt c * 2 ^ rgbFrac + 2048

/-- The registers before the first step (42_line.md R201 to R207). -/
def lineSetup (shade : Bool) (a b : LineVertex) : LineRegs :=
  let k := lineK a b
  let p := canonical a b
  let p0 := p.1
  let p1 := p.2
  let dydk := stepXY (p1.pos.yInt - p0.pos.yInt) k
  { lp0 := p0
    lp1 := p1
    k := k
    dxdk := stepXY (p1.pos.xInt - p0.pos.xInt) k
    dydk := dydk
    drdk := stepColor shade p0.color.r p1.color.r k
    dgdk := stepColor shade p0.color.g p1.color.g k
    dbdk := stepColor shade p0.color.b p1.color.b k
    curx := startX p0.pos.xInt
    cury := startY p0.pos.yInt dydk
    curr := startColor p0.color.r
    curg := startColor p0.color.g
    curb := startColor p0.color.b
    i := 0 }

/-- The advance at the end of a step (42_line.md R208). -/
def LineRegs.advance (r : LineRegs) : LineRegs :=
  { r with
    curx := r.curx + r.dxdk
    cury := r.cury + r.dydk
    curr := r.curr + r.drdk
    curg := r.curg + r.dgdk
    curb := r.curb + r.dbdk
    i := r.i + 1 }

/-- A line pixel's coordinate (42_line.md R211). -/
def lineCoord (cur : Int) : Int := lowBits (asr cur xyFrac) 11

/-- A shaded line's channel (42_line.md R210). -/
def lineChannel (cur : Int) : Byte := wrap8 (asr cur rgbFrac)

/-- A step's call of the shader (42_line.md R206, R209 to R211). -/
def LineRegs.frag (r : LineRegs) (shade : Bool) : Frag where
  pos := .line r.i
  x := lineCoord r.curx
  y := lineCoord r.cury
  r := if shade then lineChannel r.curr else r.lp0.color.r
  g := if shade then lineChannel r.curg else r.lp0.color.g
  b := if shade then lineChannel r.curb else r.lp0.color.b
  u := 0
  v := 0

/-- The per-step pixel test (42_line.md R209). -/
def linePixelDrawn (da : DrawArea) (c : DrawCfg) (x y : Int) : Bool :=
  !interlaced c y && da.hasCol x && da.hasRow y

/-- `n` steps of the loop (42_line.md R208). -/
def lineWalk (da : DrawArea) (c : DrawCfg) (shade : Bool) : Nat → LineRegs → List Frag
  | 0, _ => []
  | n + 1, r =>
    let f := r.frag shade
    if linePixelDrawn da c f.x f.y then f :: lineWalk da c shade n r.advance
    else lineWalk da c shade n r.advance

/-- The pixels a line shades, none when it is dropped (42_line.md R200). -/
def lineFrags (da : DrawArea) (shade : Bool) (c : DrawCfg) (p0 p1 : LineVertex) : List Frag :=
  if lineTooLong p0 p1 then []
  else lineWalk da c shade ((lineK p0 p1).toNat + 1) (lineSetup shade p0 p1)

/-- What the shader reads for a LINE (42_line.md R200, R209). -/
def lineShader (f : LineFlags) (c : DrawCfg) (s : State) : Shader where
  eff := lineEff f c
  cfg := c
  dither := s.params.ditherMatrix

/-- LINE (42_line.md R200). -/
def execLine (f : LineFlags) (c : DrawCfg) (p0 p1 : LineVertex) (s : State) : Host.Outcome State Fault Refusal :=
  execDraw (.line f c p0 p1) (lineShader f c s) (lineFrags s.da f.shade c p0 p1) s

end Sys2Proof.Machine
end

