-- ==== Sys2Proof/Machine/Rect.lean ====
section
/-!
DEFINITION. RECT (41_rectangle.md): the pixels it shades, in order, and its meaning.
-/

namespace Sys2Proof.Machine

/-- The pixels of the row at offset `oy`, columns in increasing order (41_rectangle.md R181 to R184). -/
def rectRow (da : DrawArea) (c : DrawCfg) (origin : XY) (size : Size) (color : Color) (uv : UV) (oy : Nat) :
    List Frag :=
  let y := origin.yInt + (oy : Int)
  if !da.hasRow y || interlaced c y then []
  else
    (List.range size.w.toNat).flatMap fun (ox : Nat) =>
      let x := origin.xInt + (ox : Int)
      if da.hasCol x then
        [{ pos := .rect oy ox, x := x, y := y, r := color.r, g := color.g, b := color.b,
           u := wrap8 (byteInt uv.u + (ox : Int)), v := wrap8 (byteInt uv.v + (oy : Int)) }]
      else []

/-- The pixels a rectangle shades, rows outer and columns inner (41_rectangle.md R180, R185). -/
def rectFrags (da : DrawArea) (c : DrawCfg) (origin : XY) (size : Size) (color : Color) (uv : UV) : List Frag :=
  (List.range size.h.toNat).flatMap fun (oy : Nat) => rectRow da c origin size color uv oy

/-- What the shader reads for a RECT (41_rectangle.md R180, R184). -/
def rectShader (f : RectFlags) (c : DrawCfg) (s : State) : Shader where
  eff := rectEff f c
  cfg := c
  dither := s.params.ditherMatrix

/-- RECT (41_rectangle.md R180). -/
def execRect (f : RectFlags) (c : DrawCfg) (origin : XY) (size : Size) (color : Color) (uv : UV) (s : State) :
    Host.Outcome State Fault Refusal :=
  execDraw (.rect f c origin size color uv) (rectShader f c s) (rectFrags s.da c origin size color uv) s

end Sys2Proof.Machine
end

