-- ==== Sys2Proof/Machine/Triangle.lean ====
section
/-!
DEFINITION. TRI and QUAD (43_triangle.md): the setup, the gradients, the halves and spans, the pixels they shade, in
order, and their meanings.
-/

namespace Sys2Proof.Machine

open Sys2Proof.Config

/-! ### Setup -/

/-- A vertex record of the triangle engine (10_state.md R44). -/
structure TriVertex where
  x : Int
  y : Int
  r : Byte
  g : Byte
  b : Byte
  u : Byte
  v : Byte
deriving DecidableEq, Repr

/-- A vertex of the command as the engine reads it (43_triangle.md R230). -/
def triVertex (v : Vertex) : TriVertex where
  x := v.pos.xInt
  y := v.pos.yInt
  r := v.color.r
  g := v.color.g
  b := v.color.b
  u := v.uv.u
  v := v.uv.v

/-- `XFP(x) = (x << 32) + (2^32 - 2^11)` (43_triangle.md R231). -/
def xfp (x : Int) : Int := x * 2 ^ xyFrac + (2 ^ 32 - 2 ^ 11)

/-- `CoreMask` (43_triangle.md R232). -/
def coreMask (x0 x1 x2 : Int) : BitVec 3 :=
  if x1 ≤ x0 then (if x2 ≤ x1 then 0b100#3 else 0b010#3)
  else if x2 < x0 then 0b100#3
  else 0b001#3

/-- The sorted vertices with their core-vertex mask (43_triangle.md R233). -/
structure Sorted where
  v0  : TriVertex
  v1  : TriVertex
  v2  : TriVertex
  cvm : BitVec 3
deriving DecidableEq, Repr

/-- The exchange of `B` and `C` when `C.y < B.y`, and of bits 1 and 2 of the mask (43_triangle.md R233). -/
def exchangeBC (s : Sorted) : Sorted :=
  if s.v2.y < s.v1.y then
    { v0 := s.v0, v1 := s.v2, v2 := s.v1,
      cvm := ((s.cvm >>> 1) &&& 2#3) ||| ((s.cvm <<< 1) &&& 4#3) ||| (s.cvm &&& 1#3) }
  else s

/-- The exchange of `A` and `B` when `B.y < A.y`, and of bits 0 and 1 of the mask (43_triangle.md R233). -/
def exchangeAB (s : Sorted) : Sorted :=
  if s.v1.y < s.v0.y then
    { v0 := s.v1, v1 := s.v0, v2 := s.v2,
      cvm := ((s.cvm >>> 1) &&& 1#3) ||| ((s.cvm <<< 1) &&& 2#3) ||| (s.cvm &&& 4#3) }
  else s

/-- `SortY` of the vertices with the mask of their smallest x (43_triangle.md R232, R233). -/
def sortY (a b c : TriVertex) : Sorted :=
  exchangeBC (exchangeAB (exchangeBC { v0 := a, v1 := b, v2 := c, cvm := coreMask a.x b.x c.x }))

/-- `CORE = CVM >> 1` (43_triangle.md R234). -/
def Sorted.core (s : Sorted) : Nat := (s.cvm >>> 1).toNat

/-- `V[CORE]` (43_triangle.md R234). -/
def Sorted.coreVertex (s : Sorted) : TriVertex :=
  if s.core = 0 then s.v0 else if s.core = 1 then s.v1 else s.v2

/-- The flat rejection (43_triangle.md R235). -/
def Sorted.flat (s : Sorted) : Bool := s.v0.y == s.v2.y

/-- The size rejection (43_triangle.md R236). -/
def Sorted.oversized (s : Sorted) : Bool :=
  decide (maxPrimitiveWidth ≤ ((s.v2.x - s.v0.x).natAbs : Int))
    || decide (maxPrimitiveWidth ≤ ((s.v2.x - s.v1.x).natAbs : Int))
    || decide (maxPrimitiveWidth ≤ ((s.v1.x - s.v0.x).natAbs : Int))
    || decide (maxPrimitiveHeight ≤ s.v2.y - s.v0.y)

/-- `XStep(dx, dy)`, for `dy > 0` (43_triangle.md R237). -/
def xStep (dx dy : Int) : Int := divAway (dx * 2 ^ xyFrac) dy

/-- `BASE_COORD` (43_triangle.md R238). -/
def Sorted.baseCoord (s : Sorted) : Int := xfp s.v0.x

/-- `BASE_STEP` (43_triangle.md R238). -/
def Sorted.baseStep (s : Sorted) : Int := xStep (s.v2.x - s.v0.x) (s.v2.y - s.v0.y)

/-- `US` (43_triangle.md R239). -/
def Sorted.us (s : Sorted) : Int :=
  if s.v1.y = s.v0.y then 0 else xStep (s.v1.x - s.v0.x) (s.v1.y - s.v0.y)

/-- `RF`, right_facing (43_triangle.md R239). -/
def Sorted.rf (s : Sorted) : Bool :=
  if s.v1.y = s.v0.y then decide (s.v0.x < s.v1.x) else decide (s.baseStep < s.us)

/-- `LS` (43_triangle.md R240). -/
def Sorted.ls (s : Sorted) : Int :=
  if s.v2.y = s.v1.y then 0 else xStep (s.v2.x - s.v1.x) (s.v2.y - s.v1.y)

/-! ### Gradients -/

/-- `CALCIS(i, j)` (43_triangle.md R242). -/
def Sorted.calcis (s : Sorted) (i j : TriVertex → Int) : Int :=
  (i s.v1 - i s.v0) * (j s.v2 - j s.v1) - (i s.v2 - i s.v1) * (j s.v1 - j s.v0)

/-- `DEN` (43_triangle.md R241). -/
def Sorted.den (s : Sorted) : Int := s.calcis TriVertex.x TriVertex.y

/-- One attribute's plane: its deltas `DDX`, `DDY` (10_state.md R46) and its value `IG` at the origin (R47). -/
structure Plane where
  ddx : BitVec 32
  ddy : BitVec 32
  ig  : BitVec 32
deriving DecidableEq, Repr

/-- A gradient quotient in 8.24, by two shifts (43_triangle.md R243). -/
def gradient (num den : Int) : BitVec 32 := wrap32 (tdiv (num * 2 ^ coordFbs) den) <<< coordPostPadding

/-- The plane of the attribute `a`; a disabled attribute has no gradient (43_triangle.md R243 to R245). -/
def Sorted.plane (s : Sorted) (enabled : Bool) (a : TriVertex → Byte) : Plane :=
  let attr : TriVertex → Int := fun w => byteInt (a w)
  let ddx := if enabled then gradient (s.calcis attr TriVertex.y) s.den else 0#32
  let ddy := if enabled then gradient (s.calcis TriVertex.x attr) s.den else 0#32
  let cv := s.coreVertex
  { ddx := ddx
    ddy := ddy
    ig := wrap32 ((attr cv * 2 ^ coordFbs + 2048) * 2 ^ coordPostPadding) + ddx * wrap32 (-cv.x) + ddy * wrap32 (-cv.y) }

/-- The planes of the five attributes. -/
structure Planes where
  r : Plane
  g : Plane
  b : Plane
  u : Plane
  v : Plane
deriving DecidableEq, Repr

/-- The enabled attributes: colours under SHADE, texture coordinates under TEX (43_triangle.md R244). -/
def Sorted.planes (s : Sorted) (shade tex : Bool) : Planes where
  r := s.plane shade TriVertex.r
  g := s.plane shade TriVertex.g
  b := s.plane shade TriVertex.b
  u := s.plane tex TriVertex.u
  v := s.plane tex TriVertex.v

/-! ### Halves -/

/-- A half descriptor (10_state.md R48); the 64-bit registers never wrap (43_triangle.md R259), so they are held as
integers (DEDUCED, safe, log 5). -/
structure Half where
  xcL : Int
  xcR : Int
  xsL : Int
  xsR : Int
  yc  : Int
  yb  : Int
  dec : Bool
deriving DecidableEq, Repr

/-- A half whose short edge stands on the side `RF` names and whose long edge on the other (43_triangle.md R247, R248). -/
def mkHalf (rf : Bool) (shortX shortStep longX longStep yc yb : Int) (dec : Bool) : Half where
  xcL := if rf then longX else shortX
  xcR := if rf then shortX else longX
  xsL := if rf then longStep else shortStep
  xsR := if rf then shortStep else longStep
  yc := yc
  yb := yb
  dec := dec

/-- The long edge's x at row `y`: `BASE_COORD + (y - V[0].y) * BASE_STEP` (43_triangle.md R247, R248). -/
def Sorted.longAt (s : Sorted) (y : Int) : Int := s.baseCoord + (y - s.v0.y) * s.baseStep

/-- `vo = 1` (43_triangle.md R246). -/
def Sorted.vo (s : Sorted) : Bool := s.core != 0

/-- `vp = 3` (43_triangle.md R246). -/
def Sorted.vp (s : Sorted) : Bool := s.core == 2

/-- The upper half, rows `[V[0].y, V[1].y)` (43_triangle.md R247). -/
def Sorted.upper (s : Sorted) : Half :=
  let a := if s.vo then s.v1 else s.v0
  let z := if s.vo then s.v0 else s.v1
  mkHalf s.rf (xfp a.x) s.us (s.longAt a.y) s.baseStep a.y z.y s.vo

/-- The lower half, rows `[V[1].y, V[2].y)` (43_triangle.md R248). -/
def Sorted.lower (s : Sorted) : Half :=
  let a := if s.vp then s.v2 else s.v1
  let z := if s.vp then s.v1 else s.v2
  mkHalf s.rf (xfp a.x) s.ls (s.longAt a.y) s.baseStep a.y z.y s.vp

/-- `HALF[0]`, walked first (43_triangle.md R247 to R249). -/
def Sorted.half0 (s : Sorted) : Half := if s.vo then s.lower else s.upper

/-- `HALF[1]`, walked second (43_triangle.md R247 to R249). -/
def Sorted.half1 (s : Sorted) : Half := if s.vo then s.upper else s.lower

/-! ### Spans -/

/-- The running accumulators `ACC[a]` (10_state.md R49). -/
structure Acc where
  r : BitVec 32
  g : BitVec 32
  b : BitVec 32
  u : BitVec 32
  v : BitVec 32
deriving DecidableEq, Repr

/-- An attribute at `(x, y)` (43_triangle.md R254). -/
def Plane.valueAt (p : Plane) (x y : Int) : BitVec 32 := p.ig + p.ddx * wrap32 x + p.ddy * wrap32 y

/-- The accumulators at the start of a span (43_triangle.md R254). -/
def Planes.acc (p : Planes) (x y : Int) : Acc where
  r := p.r.valueAt x y
  g := p.g.valueAt x y
  b := p.b.valueAt x y
  u := p.u.valueAt x y
  v := p.v.valueAt x y

/-- The accumulators one pixel to the right (43_triangle.md R255). -/
def Acc.advance (a : Acc) (p : Planes) : Acc where
  r := a.r + p.r.ddx
  g := a.g + p.g.ddx
  b := a.b + p.b.ddx
  u := a.u + p.u.ddx
  v := a.v + p.v.ddx

/-- `ACC >> 24` (43_triangle.md R255). -/
def topByte (a : BitVec 32) : Byte := a.extractLsb' 24 8

/-- Where a row stands in the command's iteration (10_state.md R40). -/
structure RowPos where
  second : Bool
  half   : Nat
deriving DecidableEq, Repr

/-- The pixels of a span, left to right (43_triangle.md R255). -/
def spanPixels (p : Planes) (row : RowPos) (y : Int) : Nat → Int → Acc → List Frag
  | 0, _, _ => []
  | n + 1, x, a =>
    { pos := .tri row.second row.half y x, x := x, y := y, r := topByte a.r, g := topByte a.g, b := topByte a.b,
      u := topByte a.u, v := topByte a.v } :: spanPixels p row y n (x + 1) (a.advance p)

/-- A span's first pixel after the clip to `DA.LEFT` (43_triangle.md R253). -/
def spanStart (da : DrawArea) (lc : Int) : Int := if asr lc xyFrac < da.l then da.l else asr lc xyFrac

/-- A span's width after both clips (43_triangle.md R253). -/
def spanWidth (da : DrawArea) (lc rc : Int) : Int :=
  let xs := asr lc xyFrac
  let w := asr rc xyFrac - xs
  let w := if xs < da.l then w - (da.l - xs) else w
  let x := spanStart da lc
  if da.r + 1 < x + w then da.r + 1 - x else w

/-- `Span(y, lc, rc)` (43_triangle.md R252 to R255). -/
def span (da : DrawArea) (c : DrawCfg) (p : Planes) (row : RowPos) (y lc rc : Int) : List Frag :=
  if interlaced c y then []
  else
    let x := spanStart da lc
    spanPixels p row y (spanWidth da lc rc).toNat x (p.acc x y)

/-- The increment walk, at most `n` rows left (43_triangle.md R250). -/
def walkIncrement (da : DrawArea) (c : DrawCfg) (p : Planes) (row : RowPos) (ls rs : Int) :
    Nat → Int → Int → Int → List Frag
  | 0, _, _, _ => []
  | n + 1, y, lc, rc =>
    if da.b < y then []
    else
      (if da.t ≤ y then span da c p row y lc rc else []) ++
        walkIncrement da c p row ls rs n (y + 1) (lc + ls) (rc + rs)

/-- The decrement walk, at most `n` rows left (43_triangle.md R251). -/
def walkDecrement (da : DrawArea) (c : DrawCfg) (p : Planes) (row : RowPos) (ls rs : Int) :
    Nat → Int → Int → Int → List Frag
  | 0, _, _, _ => []
  | n + 1, y, lc, rc =>
    if y - 1 < da.t then []
    else
      (if da.b < y - 1 then [] else span da c p row (y - 1) (lc - ls) (rc - rs)) ++
        walkDecrement da c p row ls rs n (y - 1) (lc - ls) (rc - rs)

/-- The rows of a half: `YB - YC` of them up, or `YC - YB` down (43_triangle.md R249 to R251). -/
def Half.frags (da : DrawArea) (c : DrawCfg) (p : Planes) (row : RowPos) (h : Half) : List Frag :=
  if h.dec then walkDecrement da c p row h.xsL h.xsR (h.yc - h.yb).toNat h.yc h.xcL h.xcR
  else walkIncrement da c p row h.xsL h.xsR (h.yb - h.yc).toNat h.yc h.xcL h.xcR

/-! ### The commands -/

/-- A triangle that is dropped whole (43_triangle.md R235, R236, R241). -/
def Sorted.dropped (s : Sorted) : Bool := s.flat || s.oversized || s.den == 0

/-- `DrawTriangle(a, b, c)`: the pixels it shades, in order, none when it is dropped (43_triangle.md R230). -/
def triangleFrags (da : DrawArea) (cfg : DrawCfg) (f : PolyFlags) (second : Bool) (a b c : Vertex) : List Frag :=
  let s := sortY (triVertex a) (triVertex b) (triVertex c)
  if s.dropped then []
  else
    let p := s.planes f.shade f.tex
    Half.frags da cfg p ⟨second, 0⟩ s.half0 ++ Half.frags da cfg p ⟨second, 1⟩ s.half1

/-- The second triangle of a quad (43_triangle.md R262). -/
def quadSecond (o : QuadOrder) (v1 v2 v3 : Vertex) : Vertex × Vertex × Vertex :=
  match o with
  | .o123 => (v1, v2, v3)
  | .o213 => (v2, v1, v3)

/-- The pixels a quad shades: its two triangles, one after the other (43_triangle.md R261). -/
def quadFrags (da : DrawArea) (cfg : DrawCfg) (f : PolyFlags) (o : QuadOrder) (v0 v1 v2 v3 : Vertex) : List Frag :=
  let t := quadSecond o v1 v2 v3
  triangleFrags da cfg f false v0 v1 v2 ++ triangleFrags da cfg f true t.1 t.2.1 t.2.2

/-- What the shader reads for a TRI or QUAD (43_triangle.md R230, R258). -/
def polyShader (f : PolyFlags) (c : DrawCfg) (s : State) : Shader where
  eff := polyEff s.params.untexTriDither f c
  cfg := c
  dither := s.params.ditherMatrix

/-- TRI (43_triangle.md R230). -/
def execTri (f : PolyFlags) (c : DrawCfg) (v0 v1 v2 : Vertex) (s : State) : Host.Outcome State Fault Refusal :=
  execDraw (.tri f c v0 v1 v2) (polyShader f c s) (triangleFrags s.da c f false v0 v1 v2) s

/-- QUAD (43_triangle.md R261). -/
def execQuad (f : PolyFlags) (c : DrawCfg) (v0 v1 v2 v3 : Vertex) (s : State) : Host.Outcome State Fault Refusal :=
  execDraw (.quad f c v0 v1 v2 v3) (polyShader f c s) (quadFrags s.da c f s.params.quadOrder v0 v1 v2 v3) s

end Sys2Proof.Machine
end

