-- ==== Sys2Proof/Machine/Dispatch.lean ====
section
/-!
DEFINITION. Which meaning each command has.
-/

namespace Sys2Proof.Machine

def exec (i : Instr) (s : State) : Host.Outcome State Fault Refusal :=
  match i with
  | .rect f c origin size color uv => Sys2Proof.Machine.execRect f c origin size color uv s
  | .line f c p0 p1 => Sys2Proof.Machine.execLine f c p0 p1 s
  | .tri f c v0 v1 v2 => Sys2Proof.Machine.execTri f c v0 v1 v2 s
  | .quad f c v0 v1 v2 v3 => Sys2Proof.Machine.execQuad f c v0 v1 v2 v3 s
  | .setarea left top right bottom => Sys2Proof.Machine.execSetarea left top right bottom s

end Sys2Proof.Machine
end

