-- ==== Sys2Proof/Machine/Fetch.lean ====
section
/-!
DEFINITION. How the HOST hands records over and acts between commands (70_reset_and_hazards.md R333, 30_encoding.md R116):
what `step` calls.
-/

namespace Sys2Proof.Machine

/-- The HOST's pending actions after the first record of a unit was taken off: the words after it are the next record's
(30_encoding.md R116). -/
def pending (more : List Word) (rest : List HostAction) : List HostAction :=
  if more.isEmpty then rest else .submit more :: rest

/-- The HOST's position moves past the record when the command answers a next state. -/
def advanceOutcome (o : Host.Outcome State Fault Refusal) : Host.Outcome State Fault Refusal :=
  match o with
  | .next s => .next s.advance
  | .fault r => .fault r
  | .refused r => .refused r

/-- The first record of the unit `ws` is handed over: refused by the first failing check of 30_encoding.md R111, or run.
The spec is silent on the rest of a unit of several records when one of them halts the engine. After a refusal the model
drops it (DESIGN CHOICE, safe, log 7). After a FAULT the model keeps it as the HOST's next unit, so the next step is
`Fault.halted` and an action listed behind it, a reset among them, is not reached (DESIGN CHOICE, safe, log 26). -/
def submitRecord (ws : List Word) (rest : List HostAction) (s : State) : Host.Outcome State Fault Refusal :=
  match decodeWith s.da.set ws with
  | .error r => .next ((s.withHost rest).refuse r).advance
  | .ok (i, more) => advanceOutcome (exec i (s.withHost (pending more rest)))

/-- The HOST's next action (70_reset_and_hazards.md R333). While `SEQ = BUSY` the HOST has no move. A reset or a VRAM write
is taken whenever `SEQ` is not `BUSY`. A command is taken only while `SEQ = IDLE`; a halted engine is stuck until reset
(93_implementation_defined.md U19, U20). An idle engine with nothing pending stays as it is (log 10). -/
def hostStep (s : State) : Host.Outcome State Fault Refusal :=
  match s.seq, s.host with
  | .busy _, _ => .fault .busy
  | _, .reset :: rest => .next (s.withHost rest).hostReset
  | _, .writeVram x y v :: rest => .next ((s.withHost rest).hostWrite x y v)
  | .idle, .submit ws :: rest => submitRecord ws rest s
  | .idle, [] => .next s
  | .halted, _ => .fault .halted

/-- The HOST is about to hand over the words `ws` to an engine that accepts draws: `SEQ = IDLE` and `DA.SET = 1`
(70_reset_and_hazards.md R332; log 11). -/
def State.readyToSubmit (s : State) (ws : List Word) : State :=
  { s with host := [.submit ws], seq := .idle, da := { s.da with set := true } }

end Sys2Proof.Machine
end

