-- ==== Sys2Proof/Machine/Step.lean ====
section
/-!
DEFINITION. One step of the machine: one action of the HOST, a whole command where the action hands one over
(20_memory.md R83; log 1).
-/

namespace Sys2Proof.Machine

/-- One step. -/
def step (s : State) : Host.Outcome State Fault Refusal := hostStep s

/-- The state with the instruction of the bits `w`, numbered as spec/opcode_table.json numbers them, handed over next. -/
def State.withFetchWord (s : State) (nbits w : Nat) : State := s.readyToSubmit (tableWords nbits w)

end Sys2Proof.Machine
end

