-- ==== Sys2Proof/Machine/Asm.lean ====
section
/-!
DEFINITION. The assembler of 30_encoding.md R119 to R122 over an abstract syntax (log 21): suffixes, directives,
pseudo-instructions and the range check of every operand. An assembly error is `none`.
-/

namespace Sys2Proof.Machine

/-- The flag suffixes `.g`, `.t`, `.raw`, `.st`, `.dith` (30_encoding.md R119). -/
inductive Suffix where
  | g
  | t
  | raw
  | st
  | dith
deriving DecidableEq, Repr

/-- The `MODE` of `.ilace` (30_encoding.md R120). -/
inductive IlaceMode where
  | off
  | skip0
  | skip1
deriving DecidableEq, Repr

/-- The operands of a line endpoint (30_encoding.md R119). -/
structure AsmLineVertex where
  x : Int
  y : Int
  r : Int
  g : Int
  b : Int
deriving DecidableEq, Repr

/-- The operands of a polygon vertex; `U, V` may be left out when `.t` is absent (30_encoding.md R119). -/
structure AsmVertex where
  x  : Int
  y  : Int
  r  : Int
  g  : Int
  b  : Int
  uv : Option (Int × Int)
deriving DecidableEq, Repr

/-- The operands of a vertex of `ftri` and `fquad` (30_encoding.md R121). -/
structure AsmGeo where
  x : Int
  y : Int
  u : Int
  v : Int
deriving DecidableEq, Repr

/-- The lines of an assembly program: instructions (30_encoding.md R119), directives (R120), pseudo-instructions
(R121). -/
inductive AsmLine where
  | setarea (left top right bottom : Int)
  | rect (sfx : List Suffix) (x y w h r g b : Int) (uv : Option (Int × Int))
  | line (sfx : List Suffix) (p0 p1 : AsmLineVertex)
  | tri (sfx : List Suffix) (v0 v1 v2 : AsmVertex)
  | quad (sfx : List Suffix) (v0 v1 v2 v3 : AsmVertex)
  | mask (and or : Int)
  | tpage (x y : Int) (mode : TexMode)
  | clut (x y : Int)
  | twin (andX andY orX orY : Int)
  | blend (mode : BlendMode)
  | ilace (mode : IlaceMode)
  | polyline (sfx : List Suffix) (vs : List AsmLineVertex)
  | pixel (sfx : List Suffix) (x y r g b : Int)
  | ftri (sfx : List Suffix) (r g b : Int) (v0 v1 v2 : AsmGeo)
  | fquad (sfx : List Suffix) (r g b : Int) (v0 v1 v2 v3 : AsmGeo)
deriving DecidableEq, Repr

/-- The directive state before the first directive (30_encoding.md R120). -/
def asmInit : DrawCfg where
  trans := false
  ilace := false
  alsb := false
  tmode := .palette4
  bmode := .halfHalf
  maskAnd := 0
  maskOr := 0
  pageX := 0
  pageY := 0
  clutX := 0
  clutY := 0
  winAndX := 255
  winAndY := 255
  winOrX := 0
  winOrY := 0

/-! ### Operands (30_encoding.md R122) -/

/-- An unsigned operand of `n` bits, an error out of its range. -/
def unsignedOp (n : Nat) (v : Int) : Option (BitVec n) :=
  if 0 ≤ v ∧ v < 2 ^ n then some (BitVec.ofInt n v) else none

/-- A signed operand of `n` bits, stored as `wrapN(v)`, an error out of its range. -/
def signedOp (n : Nat) (v : Int) : Option (BitVec n) :=
  if -(2 ^ (n - 1)) ≤ v ∧ v < 2 ^ (n - 1) then some (BitVec.ofInt n v) else none

/-- A position operand pair. -/
def xyOp (x y : Int) : Option XY := do
  let x ← signedOp 11 x
  let y ← signedOp 11 y
  return ⟨x, y⟩

/-- A colour operand triple. -/
def colorOp (r g b : Int) : Option Color := do
  let r ← unsignedOp 8 r
  let g ← unsignedOp 8 g
  let b ← unsignedOp 8 b
  return ⟨r, g, b⟩

/-- A texture-coordinate operand pair; left out it is 0, which needs `.t` absent. -/
def uvOp (textured : Bool) (uv : Option (Int × Int)) : Option UV :=
  match uv with
  | some (u, v) => do
    let u ← unsignedOp 8 u
    let v ← unsignedOp 8 v
    return ⟨u, v⟩
  | none => if textured then none else some ⟨0, 0⟩

/-- A line endpoint's operands. -/
def lineVertexOp (v : AsmLineVertex) : Option LineVertex := do
  let pos ← xyOp v.x v.y
  let color ← colorOp v.r v.g v.b
  return ⟨pos, color⟩

/-- A polygon vertex's operands. -/
def vertexOp (textured : Bool) (v : AsmVertex) : Option Vertex := do
  let pos ← xyOp v.x v.y
  let color ← colorOp v.r v.g v.b
  let uv ← uvOp textured v.uv
  return ⟨pos, color, uv⟩

/-- The suffixes are ones the mnemonic lists, each at most once (30_encoding.md R119). -/
def suffixesOk (allowed sfx : List Suffix) : Bool := sfx.all allowed.contains && decide sfx.Nodup

/-- The flags of a polygon's suffixes. -/
def polySuffixes (sfx : List Suffix) : PolyFlags where
  shade := sfx.contains .g
  tex := sfx.contains .t
  raw := sfx.contains .raw
  dither := sfx.contains .dith

/-- The configuration a draw encodes: the directive state, with `.st` (30_encoding.md R119, R120). -/
def cfgWith (c : DrawCfg) (sfx : List Suffix) : DrawCfg := { c with trans := sfx.contains .st }

/-! ### Instructions (30_encoding.md R119) -/

/-- `setarea LEFT, TOP, RIGHT, BOTTOM`. -/
def asmSetarea (l t r b : Int) : Option Instr := do
  let l ← signedOp 16 l
  let t ← signedOp 16 t
  let r ← signedOp 16 r
  let b ← signedOp 16 b
  return .setarea l t r b

/-- `rect[.t][.raw][.st] X, Y, W, H, R, G, B, U, V`. -/
def asmRect (c : DrawCfg) (sfx : List Suffix) (x y w h r g b : Int) (uv : Option (Int × Int)) : Option Instr :=
  if suffixesOk [.t, .raw, .st] sfx then do
    let pos ← xyOp x y
    let w ← unsignedOp 10 w
    let h ← unsignedOp 9 h
    let color ← colorOp r g b
    let t ← uvOp (sfx.contains .t) uv
    return .rect ⟨sfx.contains .t, sfx.contains .raw⟩ (cfgWith c sfx) pos ⟨w, h⟩ color t
  else none

/-- `line[.g][.st][.dith] X0, ..., B1`. -/
def asmLineInstr (c : DrawCfg) (sfx : List Suffix) (p0 p1 : AsmLineVertex) : Option Instr :=
  if suffixesOk [.g, .st, .dith] sfx then do
    let p0 ← lineVertexOp p0
    let p1 ← lineVertexOp p1
    return .line ⟨sfx.contains .g, sfx.contains .dith⟩ (cfgWith c sfx) p0 p1
  else none

/-- `tri[.g][.t][.raw][.st][.dith] ...`. -/
def asmTri (c : DrawCfg) (sfx : List Suffix) (v0 v1 v2 : AsmVertex) : Option Instr :=
  if suffixesOk [.g, .t, .raw, .st, .dith] sfx then do
    let v0 ← vertexOp (sfx.contains .t) v0
    let v1 ← vertexOp (sfx.contains .t) v1
    let v2 ← vertexOp (sfx.contains .t) v2
    return .tri (polySuffixes sfx) (cfgWith c sfx) v0 v1 v2
  else none

/-- `quad[.g][.t][.raw][.st][.dith] ...`. -/
def asmQuad (c : DrawCfg) (sfx : List Suffix) (v0 v1 v2 v3 : AsmVertex) : Option Instr :=
  if suffixesOk [.g, .t, .raw, .st, .dith] sfx then do
    let v0 ← vertexOp (sfx.contains .t) v0
    let v1 ← vertexOp (sfx.contains .t) v1
    let v2 ← vertexOp (sfx.contains .t) v2
    let v3 ← vertexOp (sfx.contains .t) v3
    return .quad (polySuffixes sfx) (cfgWith c sfx) v0 v1 v2 v3
  else none

/-! ### Pseudo-instructions (30_encoding.md R121) -/

/-- One `line` from each vertex to the next, in order. -/
def asmSegments (c : DrawCfg) (sfx : List Suffix) : AsmLineVertex → List AsmLineVertex → Option (List Instr)
  | _, [] => some []
  | a, b :: rest => do
    let i ← asmLineInstr c sfx a b
    let more ← asmSegments c sfx b rest
    return i :: more

/-- `polyline`: the segments between neighbours, at least one of them. -/
def asmPolyline (c : DrawCfg) (sfx : List Suffix) : List AsmLineVertex → Option (List Instr)
  | a :: b :: rest => asmSegments c sfx a (b :: rest)
  | _ => none

/-- `pixel[.st] X, Y, R, G, B`: a 1 x 1 rectangle. -/
def asmPixel (c : DrawCfg) (sfx : List Suffix) (x y r g b : Int) : Option Instr :=
  if suffixesOk [.st] sfx then asmRect c sfx x y 1 1 r g b none else none

/-- A vertex of `ftri` and `fquad`, with the common colour. -/
def geoVertex (r g b : Int) (v : AsmGeo) : AsmVertex := ⟨v.x, v.y, r, g, b, some (v.u, v.v)⟩

/-- `ftri[.t][.raw][.st][.dith] R,G,B, X0,Y0,U0,V0, ...`. -/
def asmFtri (c : DrawCfg) (sfx : List Suffix) (r g b : Int) (v0 v1 v2 : AsmGeo) : Option Instr :=
  if suffixesOk [.t, .raw, .st, .dith] sfx then
    asmTri c sfx (geoVertex r g b v0) (geoVertex r g b v1) (geoVertex r g b v2)
  else none

/-- `fquad[.t][.raw][.st][.dith] R,G,B, X0,Y0,U0,V0, ...`. -/
def asmFquad (c : DrawCfg) (sfx : List Suffix) (r g b : Int) (v0 v1 v2 v3 : AsmGeo) : Option Instr :=
  if suffixesOk [.t, .raw, .st, .dith] sfx then
    asmQuad c sfx (geoVertex r g b v0) (geoVertex r g b v1) (geoVertex r g b v2) (geoVertex r g b v3)
  else none

/-! ### Directives (30_encoding.md R120) and programs -/

/-- `.mask AND, OR`. -/
def asmMask (c : DrawCfg) (a o : Int) : Option DrawCfg := do
  let a ← unsignedOp 16 a
  let o ← unsignedOp 16 o
  return { c with maskAnd := a, maskOr := o }

/-- `.tpage X, Y, MODE`; `MODE` is `p4`, `p8` or `d15`. -/
def asmTpage (c : DrawCfg) (x y : Int) (m : TexMode) : Option DrawCfg :=
  if m = .reserved then none
  else do
    let x ← unsignedOp 10 x
    let y ← unsignedOp 9 y
    return { c with pageX := x, pageY := y, tmode := m }

/-- `.clut X, Y`. -/
def asmClut (c : DrawCfg) (x y : Int) : Option DrawCfg := do
  let x ← unsignedOp 10 x
  let y ← unsignedOp 9 y
  return { c with clutX := x, clutY := y }

/-- `.twin ANDX, ANDY, ORX, ORY`. -/
def asmTwin (c : DrawCfg) (ax ay ox oy : Int) : Option DrawCfg := do
  let ax ← unsignedOp 8 ax
  let ay ← unsignedOp 8 ay
  let ox ← unsignedOp 8 ox
  let oy ← unsignedOp 8 oy
  return { c with winAndX := ax, winAndY := ay, winOrX := ox, winOrY := oy }

/-- `.ilace MODE`. -/
def asmIlace (c : DrawCfg) : IlaceMode → DrawCfg
  | .off => { c with ilace := false, alsb := false }
  | .skip0 => { c with ilace := true, alsb := false }
  | .skip1 => { c with ilace := true, alsb := true }

/-- One line: the directive state after it and the commands it emits; a directive emits none. -/
def asmOne (c : DrawCfg) : AsmLine → Option (DrawCfg × List Instr)
  | .setarea l t r b => (asmSetarea l t r b).map fun i => (c, [i])
  | .rect sfx x y w h r g b uv => (asmRect c sfx x y w h r g b uv).map fun i => (c, [i])
  | .line sfx p0 p1 => (asmLineInstr c sfx p0 p1).map fun i => (c, [i])
  | .tri sfx v0 v1 v2 => (asmTri c sfx v0 v1 v2).map fun i => (c, [i])
  | .quad sfx v0 v1 v2 v3 => (asmQuad c sfx v0 v1 v2 v3).map fun i => (c, [i])
  | .mask a o => (asmMask c a o).map fun c => (c, [])
  | .tpage x y m => (asmTpage c x y m).map fun c => (c, [])
  | .clut x y => (asmClut c x y).map fun c => (c, [])
  | .twin ax ay ox oy => (asmTwin c ax ay ox oy).map fun c => (c, [])
  | .blend m => some ({ c with bmode := m }, [])
  | .ilace m => some (asmIlace c m, [])
  | .polyline sfx vs => (asmPolyline c sfx vs).map fun is => (c, is)
  | .pixel sfx x y r g b => (asmPixel c sfx x y r g b).map fun i => (c, [i])
  | .ftri sfx r g b v0 v1 v2 => (asmFtri c sfx r g b v0 v1 v2).map fun i => (c, [i])
  | .fquad sfx r g b v0 v1 v2 v3 => (asmFquad c sfx r g b v0 v1 v2 v3).map fun i => (c, [i])

/-- The commands of a program from a directive state. -/
def assembleFrom : DrawCfg → List AsmLine → Option (List Instr)
  | _, [] => some []
  | c, l :: ls => do
    let p ← asmOne c l
    let more ← assembleFrom p.1 ls
    return p.2 ++ more

/-- The commands of a program. -/
def assemble (ls : List AsmLine) : Option (List Instr) := assembleFrom asmInit ls

/-- The records of a program, one after the other (30_encoding.md R100). -/
def assembleWords (ls : List AsmLine) : Option (List Word) := (assemble ls).map fun is => is.flatMap encode

end Sys2Proof.Machine
end

