-- ==== Sys2Proof/Safety.lean ====
section
/-!
DEFINITION. What counts as a safe state and a safe run, and the words the claims are stated in: the outcomes of a
command (60_exceptions.md R300), the launch premises, the run and its end (70_reset_and_hazards.md R338, R340), the
invariant of the machine, and the pixels of each command in closed form.
-/

namespace Sys2Proof.Machine

open Sys2Proof.Config

/-! ### What a draw command hands to the shader -/

/-- The configuration a draw command carries; SETAREA has none (30_encoding.md R109). -/
def configOf : Instr → Option DrawCfg
  | .rect _ c _ _ _ _ => some c
  | .line _ c _ _ => some c
  | .tri _ c _ _ _ => some c
  | .quad _ c _ _ _ _ => some c
  | .setarea _ _ _ _ => none

/-- The effective flags of a draw command under the parameters `p` (30_encoding.md R112 to R114). -/
def effectiveFlags (p : Params) : Instr → EffFlags
  | .rect f c _ _ _ _ => rectEff f c
  | .line f c _ _ => lineEff f c
  | .tri f c _ _ _ => polyEff p.untexTriDither f c
  | .quad f c _ _ _ _ => polyEff p.untexTriDither f c
  | .setarea _ _ _ _ => ⟨false, false, false, false, false⟩

/-- The pixels a command shades under the area `da`, in order; SETAREA shades none. -/
def fragsOf (p : Params) (da : DrawArea) : Instr → List Frag
  | .rect _ c o sz col uv => rectFrags da c o sz col uv
  | .line f c p0 p1 => lineFrags da f.shade c p0 p1
  | .tri f c v0 v1 v2 => triangleFrags da c f false v0 v1 v2
  | .quad f c v0 v1 v2 v3 => quadFrags da c f p.quadOrder v0 v1 v2 v3
  | .setarea _ _ _ _ => []

/-- What the shader reads for a draw command. -/
def shaderOf (i : Instr) (p : Params) (c : DrawCfg) : Shader := ⟨effectiveFlags p i, c, p.ditherMatrix⟩

/-- The word at a pixel inside VRAM after the shader's call there. -/
def wordAfter (sh : Shader) (m : Memory) (f : Frag) : Pixel :=
  (pixelWord sh m f).getD (m.vread f.x.toNat f.y.toNat)

/-- No pixel of the list is a word that a texel fetch of the list reads: the command does not read what it writes
(70_reset_and_hazards.md R334). -/
def NoSelfTexture (sh : Shader) (m : Memory) (frags : List Frag) : Prop :=
  sh.eff.tex = true →
    ∀ f ∈ frags, ∀ p ∈ texelReads sh.cfg m (windowU sh.cfg f.u) (windowV sh.cfg f.v),
      ∀ g ∈ frags, ¬(g.x = (p.1 : Int) ∧ g.y = (p.2 : Int))

/-! ### Closed forms of the pixels -/

/-- The shader's call of a rectangle at `(x, y)` (41_rectangle.md R183, R184). -/
def rectCall (origin : XY) (color : Color) (uv : UV) (x y : Int) : Frag where
  pos := .start
  x := x
  y := y
  r := color.r
  g := color.g
  b := color.b
  u := wrap8 (byteInt uv.u + (x - origin.xInt))
  v := wrap8 (byteInt uv.v + (y - origin.yInt))

/-- A rectangle shades `(x, y)`: inside its footprint, inside the area, not masked by interlace (41_rectangle.md R180 to
R182). -/
def rectCovers (da : DrawArea) (c : DrawCfg) (origin : XY) (size : Size) (x y : Int) : Bool :=
  decide (origin.xInt ≤ x) && decide (x < origin.xInt + (size.w.toNat : Int)) && decide (origin.yInt ≤ y)
    && decide (y < origin.yInt + (size.h.toNat : Int)) && da.hasCol x && da.hasRow y && !interlaced c y

/-- A line's registers at step `i` (42_line.md R207, R208). -/
def lineRegsAt (shade : Bool) (p0 p1 : LineVertex) (i : Nat) : LineRegs :=
  let r := lineSetup shade p0 p1
  { r with
    curx := r.curx + (i : Int) * r.dxdk
    cury := r.cury + (i : Int) * r.dydk
    curr := r.curr + (i : Int) * r.drdk
    curg := r.curg + (i : Int) * r.dgdk
    curb := r.curb + (i : Int) * r.dbdk
    i := i }

/-- The shader's call of a line at step `i` (42_line.md R206, R210, R211). -/
def lineCall (shade : Bool) (p0 p1 : LineVertex) (i : Nat) : Frag := (lineRegsAt shade p0 p1 i).frag shade

/-- The sorted vertices of a triangle command. -/
def sortedOf (a b c : Vertex) : Sorted := sortY (triVertex a) (triVertex b) (triVertex c)

/-- The half that holds row `y`. -/
def Sorted.halfAt (s : Sorted) (y : Int) : Half := if y < s.v1.y then s.upper else s.lower

/-- The left bound of row `y`, stepped from the start of its half (43_triangle.md R250, R251, R253). -/
def Sorted.leftAt (s : Sorted) (y : Int) : Int :=
  asr ((s.halfAt y).xcL + (y - (s.halfAt y).yc) * (s.halfAt y).xsL) xyFrac

/-- The right bound of row `y`, stepped from the start of its half (43_triangle.md R250, R251, R253). -/
def Sorted.rightAt (s : Sorted) (y : Int) : Int :=
  asr ((s.halfAt y).xcR + (y - (s.halfAt y).yc) * (s.halfAt y).xsR) xyFrac

/-- A triangle shades `(x, y)` (43_triangle.md R235, R236, R241, R260). -/
def triCovers (da : DrawArea) (c : DrawCfg) (s : Sorted) (x y : Int) : Bool :=
  !s.dropped && decide (s.v0.y ≤ y) && decide (y < s.v2.y) && decide (s.leftAt y ≤ x) && decide (x < s.rightAt y)
    && da.hasCol x && da.hasRow y && !interlaced c y

/-- The shader's call of a triangle at `(x, y)`, the attributes in closed form (43_triangle.md R257). -/
def triCall (p : Planes) (x y : Int) : Frag where
  pos := .start
  x := x
  y := y
  r := topByte (p.r.valueAt x y)
  g := topByte (p.g.valueAt x y)
  b := topByte (p.b.valueAt x y)
  u := topByte (p.u.valueAt x y)
  v := topByte (p.v.valueAt x y)

/-- A triangle command that R235, R236 or R241 drops, in terms of its vertices as given: the three on one row, two of them
1024 or more apart in x or 512 or more apart in y, or all on one line (43_triangle.md R235, R236, R241). -/
def DegenerateTriangle (a b c : Vertex) : Prop :=
  (a.pos.yInt = b.pos.yInt ∧ b.pos.yInt = c.pos.yInt)
    ∨ 1024 ≤ |a.pos.xInt - b.pos.xInt| ∨ 1024 ≤ |b.pos.xInt - c.pos.xInt| ∨ 1024 ≤ |c.pos.xInt - a.pos.xInt|
    ∨ 512 ≤ |a.pos.yInt - b.pos.yInt| ∨ 512 ≤ |b.pos.yInt - c.pos.yInt| ∨ 512 ≤ |c.pos.yInt - a.pos.yInt|
    ∨ (b.pos.xInt - a.pos.xInt) * (c.pos.yInt - b.pos.yInt) = (c.pos.xInt - b.pos.xInt) * (b.pos.yInt - a.pos.yInt)

/-! ### Texture sampling, on numbers (20_memory.md R71, 40_pixel_shader.md R141 to R144) -/

/-- `TU` of a texture coordinate (R141). -/
def ruleTU (c : DrawCfg) (tu : Byte) : Nat := (tu.toNat &&& c.winAndX.toNat) ||| c.winOrX.toNat

/-- `TV` of a texture coordinate (R141). -/
def ruleTV (c : DrawCfg) (tv : Byte) : Nat := (tv.toNat &&& c.winAndY.toNat) ||| c.winOrY.toNat

/-- The columns right of `PAGEX` of the page word: `TU >> 2`, `TU >> 1` or `TU` by mode (R142 to R144). -/
def ruleColumn (c : DrawCfg) (tu : Byte) : Nat :=
  if c.tmode = .palette4 then ruleTU c tu >>> 2 else if c.tmode = .palette8 then ruleTU c tu >>> 1 else ruleTU c tu

/-- The coordinate of the page word (R71). -/
def rulePage (c : DrawCfg) (tu tv : Byte) : Nat × Nat :=
  ((c.pageX.toNat + ruleColumn c tu) % 1024, (c.pageY.toNat + ruleTV c tv) % 512)

/-- `IDX`, of a palette mode (R142, R143). -/
def ruleIndex (c : DrawCfg) (m : Memory) (tu tv : Byte) : Nat :=
  let w := (m.vread (rulePage c tu tv).1 (rulePage c tu tv).2).toNat
  if c.tmode = .palette4 then (w >>> (4 * (ruleTU c tu % 4))) &&& 0xF else (w >>> (8 * (ruleTU c tu % 2))) &&& 0xFF

/-- The coordinate of the palette entry (R71). -/
def ruleEntry (c : DrawCfg) (m : Memory) (tu tv : Byte) : Nat × Nat :=
  ((c.clutX.toNat + ruleIndex c m tu tv) % 1024, c.clutY.toNat)

/-! ### The refusal table, on the numbers of the words (30_encoding.md R111) -/

/-- The record length of a kind code (30_encoding.md R102). -/
def lengthByTable (k : Nat) : Nat :=
  if k = 2 then 14 else if k = 3 then 17 else if k = 4 then 3 else 9

/-- The reserved mask of word `j` of a record of kind code `k` (30_encoding.md R103 to R109). -/
def reservedByTable (k j : Nat) : Nat :=
  if k = 4 then 0
  else if j = 2 ∨ j = 3 then 0xFE00FC00
  else if j < 5 then 0
  else if k = 0 then
    (if j = 5 then 0xF800F800 else if j = 6 then 0xFE00FC00 else if j = 7 then 0xFF000000 else 0xFFFF0000)
  else if k = 1 then (if j % 2 = 1 then 0xF800F800 else 0xFF000000)
  else if j % 3 = 2 then 0xF800F800
  else if j % 3 = 0 then 0xFF000000
  else 0xFFFF0000

/-- A reserved bit is set in a word after the header, `ws` being those words and `k` the kind code. -/
def reservedSet (k : Nat) (ws : List Word) : Bool :=
  (List.range (lengthByTable k - 1)).any fun n =>
    (ws.getD n 0#32).toNat &&& reservedByTable k (n + 1) != 0

/-- The first failing check of 30_encoding.md R111 for a record with header `h` and `ws` after it. -/
def refusalByTable (daSet : Bool) (h : Word) (ws : List Word) : Option RefReason :=
  let n := h.toNat
  let k := n % 8
  if n / 2 ^ 14 ≠ 0 then some .hdrRsv
  else if 5 ≤ k then some .kind
  else if ws.length + 1 < lengthByTable k then some .len
  else if k = 4 ∧ n ≠ 4 then some .setareaFlags
  else if k < 4 ∧ daSet = false then some .daUnset
  else if (k = 0 ∧ (n.testBit 3 ∨ n.testBit 7)) ∨ (k = 1 ∧ (n.testBit 4 ∨ n.testBit 5)) then some .flags
  else if n.testBit 4 ∧ n / 2 ^ 10 % 4 = 3 then some .tmode
  else if reservedSet k ws then some .fieldRsv
  else none

/-- The `match` value of the opcode map (30_encoding.md R117). -/
def opcodeMatch : Kind → Word
  | .rect => 0x00000000#32
  | .line => 0x00000001#32
  | .tri => 0x00000002#32
  | .quad => 0x00000003#32
  | .setarea => 0x00000004#32

/-- The `mask` value of the opcode map (30_encoding.md R117). -/
def opcodeMask : Kind → Word
  | .rect => 0xFFFFC08F#32
  | .line => 0xFFFFC037#32
  | .tri => 0xFFFFC007#32
  | .quad => 0xFFFFC007#32
  | .setarea => 0xFFFFFFFF#32

/-! ### Fields that the effective flags ignore -/

/-- Two configurations agree on every field that their effective flags do not make irrelevant (30_encoding.md R115). -/
def SameEffectiveCfg (e : EffFlags) (c c' : DrawCfg) : Prop :=
  c.trans = c'.trans ∧ (e.trans = true → c.bmode = c'.bmode) ∧ c.ilace = c'.ilace ∧ (c.ilace = true → c.alsb = c'.alsb)
    ∧ c.maskAnd = c'.maskAnd ∧ c.maskOr = c'.maskOr
    ∧ (e.tex = true → c.tmode = c'.tmode ∧ c.pageX = c'.pageX ∧ c.pageY = c'.pageY ∧ c.winAndX = c'.winAndX
        ∧ c.winAndY = c'.winAndY ∧ c.winOrX = c'.winOrX ∧ c.winOrY = c'.winOrY
        ∧ (c.tmode ≠ .direct15 → c.clutX = c'.clutX ∧ c.clutY = c'.clutY))

/-- Two polygon vertices agree on what their effective flags read: the UV only under TEX. -/
def SameEffectiveVertex (tex : Bool) (v v' : Vertex) : Prop :=
  v.pos = v'.pos ∧ v.color = v'.color ∧ (tex = true → v.uv = v'.uv)

/-! ### Outcomes of a command (60_exceptions.md R300) -/

/-- The outcomes of a command. -/
inductive CmdOutcome where
  | completed
  | dropped
  | refused (r : RefReason)
  | faulted (x y : Int)
deriving DecidableEq, Repr

/-- The whole-primitive drops of 60_exceptions.md R301: a quad is dropped when both its triangles are (DEDUCED, safe,
log 15). -/
def droppedWhole (p : Params) : Instr → Bool
  | .rect _ _ _ _ _ _ => false
  | .line _ _ p0 p1 => lineTooLong p0 p1
  | .tri _ _ v0 v1 v2 => (sortedOf v0 v1 v2).dropped
  | .quad _ _ v0 v1 v2 v3 =>
    let t := quadSecond p.quadOrder v1 v2 v3
    (sortedOf v0 v1 v2).dropped && (sortedOf t.1 t.2.1 t.2.2).dropped
  | .setarea _ _ _ _ => false

/-- The outcome of the command `i` from a state with no mark, none when the engine does not accept it. -/
def commandOutcome (i : Instr) (s : State) : Option CmdOutcome :=
  match exec i s with
  | .next t =>
    match t.refused, t.fault with
    | some m, _ => some (.refused m.reason)
    | none, some m => some (.faulted m.x m.y)
    | none, none => some (if droppedWhole s.params i then .dropped else .completed)
  | .fault _ => none
  | .refused _ => none

/-! ### Safe states and runs -/

/-- Every coordinate of the area lies in VRAM: no draw can fault (10_state.md R32, 40_pixel_shader.md R160). -/
def DrawArea.InVram (a : DrawArea) : Prop :=
  ∀ x y : Int, a.hasCol x = true → a.hasRow y = true → inVram x y = true

/-- The engine accepts draws: `SEQ = IDLE` and `DA.SET = 1` (70_reset_and_hazards.md R332, R333). -/
def State.ready (s : State) : Bool := decide (s.seq = .idle) && s.da.set

/-- `t` is `s` after a command that wrote nothing but VRAM and completed: every other register, mark, parameter and
the HOST's side as before, the latch empty, `SEQ = IDLE`. -/
def DrewOnly (s t : State) : Prop := t = { s with mem := t.mem, cl := none, seq := .idle }

/-- The VRAM word `(x, y)` holds the byte at address `a`. -/
def wordHolds (x y a : Nat) : Prop := a = vramAddr x y ∨ a = vramAddr x y + 1

/-- `LP_CLEAN` (70_reset_and_hazards.md R340). -/
def State.Clean (s : State) : Prop := s.seq = .idle ∧ s.cl = none ∧ s.fault = none ∧ s.refused = none

/-- What 10_state.md R37 has a model assume of the dither parameter: the entries of `DITHER_LUT` that the source's
scenarios fix. That every entry is in `[0, 31]` is the entries' type. -/
def DitherAdmissible (p : Params) : Prop :=
  ditherLut p.ditherMatrix 2 3 0 = 0 ∧ ditherLut p.ditherMatrix 2 3 255 = 31 ∧ ditherLut p.ditherMatrix 2 3 494 = 31

/-! ### Runs (70_reset_and_hazards.md R338, R340) -/

/-- The words an action submits, none for the actions that submit nothing. -/
def HostAction.words : HostAction → Option (List Word)
  | .submit ws => some ws
  | .reset => none
  | .writeVram _ _ _ => none

/-- The list `P` that a queue of the HOST still has to submit, in order. -/
def submissions (h : List HostAction) : List (List Word) := h.filterMap HostAction.words

/-- The HOST does in a run what R338 lets it: submit records, and write VRAM between commands; no reset. -/
def runActions (h : List HostAction) : Bool := !h.contains .reset

/-- A final state of a run: every record submitted and `SEQ = IDLE` (R338). VRAM writes listed behind the last record are
no part of the run. -/
def State.Final (s : State) : Prop := s.seq = .idle ∧ submissions s.host = []

/-- The run ends at this state: it is final, or `SEQ = HALTED` (R338). -/
def State.ended (s : State) : Bool :=
  match s.seq with
  | .idle => (submissions s.host).isEmpty
  | .halted => true
  | .busy _ => false

/-- The state at which the run from `s` ends, if it does within `n` steps. No step is taken from a state at which the run
has ended, so nothing listed behind a halting record is part of it. -/
def runEnd : Nat → State → Option State
  | 0, s => if s.ended then some s else none
  | n + 1, s =>
    if s.ended then some s
    else
      match step s with
      | .next t => runEnd n t
      | .fault _ => none
      | .refused _ => none

/-- The run from `s` ends in the final state `t`: no command of it faulted or was refused (R338). -/
def SafeRun (s t : State) : Prop := ∃ n, runEnd n s = some t ∧ t.Final

/-- The observation of a final state: the VRAM contents and `DA` (R338). -/
def State.observation (s : State) : Memory × DrawArea := (s.mem, s.da)

/-- The run from `s` has the observation `o`; a run that halts has none (R338). -/
def Observes (s : State) (o : Memory × DrawArea) : Prop := ∃ t, SafeRun s t ∧ t.observation = o

/-- The first record of `P` is a SETAREA (R340): it decodes to one. The spec leaves open whether a `KIND = 4` record that
30_encoding.md R111 refuses counts as one; here it does not (DESIGN CHOICE, safe, log 27). -/
def startsWithSetarea (P : List (List Word)) : Bool :=
  match P with
  | [] => false
  | ws :: _ =>
    match decode ws with
    | .ok (i, _) => i.kind == .setarea
    | .error _ => false

/-- `LP_VRAM(V)` (R340). -/
def State.LaunchVram (s : State) (v : Memory) : Prop := s.mem = v

/-- `LP_AREA`: `DA.SET = 1` with the named area, or the first record of `P` is a SETAREA (R340). -/
def State.LaunchArea (s : State) (area : DrawArea) (P : List (List Word)) : Prop :=
  (s.da = area ∧ s.da.set = true) ∨ startsWithSetarea P = true

/-- A run of `P` is launched from `s`: the three premises of R340, what 10_state.md R37 assumes of the dither parameter,
and a HOST that submits `P` in order and does nothing else but write VRAM. -/
structure Launched (P : List (List Word)) (v : Memory) (area : DrawArea) (s : State) : Prop where
  clean   : s.Clean
  vram    : s.LaunchVram v
  area    : s.LaunchArea area P
  dither  : DitherAdmissible s.params
  records : submissions s.host = P
  actions : runActions s.host = true

/-- The invariant of the machine between steps: VRAM in canonical form, no command running, the latch empty
(10_state.md R38, R40), halted exactly when a mark is set (60_exceptions.md R303, R304), at most one mark, and a fault
only of a pixel outside VRAM. -/
def State.Inv (s : State) : Prop :=
  s.mem.wf = true ∧ (s.seq = .idle ∨ s.seq = .halted) ∧ s.cl = none
    ∧ (s.seq = .halted ↔ (s.fault ≠ none ∨ s.refused ≠ none))
    ∧ (s.fault = none ∨ s.refused = none)
    ∧ (∀ m, s.fault = some m → inVram m.x m.y = false)

end Sys2Proof.Machine
end

