-- ==== Sys2Proof/Certificates/Slice0/Obligations.lean ====
section
/-!
DEFINITION. The statements for the provers, from the numbered rules of spec/. Rules that the spec itself marks as derived
from others, or as taken from general knowledge (log 20), are its own inferences: a statement that rests on one has basis
'derived' and says so.
-/

open Sys2Proof Sys2Proof.Machine Sys2Proof.Config

/-! ### Reset, the host and the step -/

/-- After power-up over any VRAM and any parameters the block is clean: `LP_CLEAN` holds, `DA.SET = 0`, VRAM is `VRAM0`
and the parameters are the given ones (10_state.md R53, 70_reset_and_hazards.md R330, R331, R340). -/
def Obligations.PowerUpLeavesTheBlockClean : Prop :=
  ∀ (vram0 : Memory) (p : Params),
    (State.powerUp vram0 p).Clean ∧ (State.powerUp vram0 p).da.set = false ∧ (State.powerUp vram0 p).mem = vram0
      ∧ (State.powerUp vram0 p).params = p

/-- The HOST's reset: taken whenever `SEQ` is not `BUSY`, also from `HALTED`; it makes the block clean with
`DA.SET = 0` and keeps VRAM and the parameters; while `BUSY` it has no move (70_reset_and_hazards.md R330, R333). -/
def Obligations.HostResetClearsAllButVram : Prop :=
  ∀ (s : State) (rest : List HostAction), s.host = .reset :: rest →
    ((s.seq = .idle ∨ s.seq = .halted) →
      ∃ t, step s = .next t ∧ t.Clean ∧ t.da.set = false ∧ t.mem = s.mem ∧ t.params = s.params ∧ t.host = rest
        ∧ t.recordIndex = s.recordIndex)
    ∧ (∀ p, s.seq = .busy p → step s = .fault .busy)

/-- A step at which the HOST hands over words that decode to a command the engine can take runs exactly that command:
the words after the record stay the HOST's next, and the position in the stream moves by one
(30_encoding.md R116, 20_memory.md R87). -/
def Obligations.StepRunsTheDecodedCommand : Prop :=
  ∀ (s : State) (ws more : List Word) (rest : List HostAction) (i : Instr),
    s.seq = .idle → s.host = .submit ws :: rest → decode ws = .ok (i, more) → (s.da.set = true ∨ i.kind = .setarea) →
      step s = advanceOutcome (exec i (s.withHost (pending more rest)))

/-- A refused record: no VRAM access, no change of `DA`; `REFUSED` holds the reason and the record's position, the
engine is halted, and no command is taken from there (60_exceptions.md R304). That the rest of the unit is dropped and
the position moves by one is the model's (log 6, log 7). -/
def Obligations.RefusedRecordHaltsAndChangesNothingElse : Prop :=
  ∀ (s : State) (ws : List Word) (rest : List HostAction) (r : RefReason),
    s.seq = .idle → s.host = .submit ws :: rest → decodeWith s.da.set ws = .error r →
      ∃ t, step s = .next t
        ∧ t = { s with refused := some ⟨r, s.recordIndex⟩, seq := .halted, cl := none, host := rest,
                       recordIndex := s.recordIndex + 1 }
        ∧ ∀ i, exec i t = .fault .halted

/-- The HOST's write of a VRAM word while no command runs: that word holds the value, little-endian in the byte view,
and every byte of every other word is as before (70_reset_and_hazards.md R333, 20_memory.md R74). -/
def Obligations.HostWriteChangesOneWord : Prop :=
  ∀ (s : State) (x : BitVec 10) (y : BitVec 9) (v : Pixel) (rest : List HostAction),
    s.mem.wf = true → (s.seq = .idle ∨ s.seq = .halted) → s.host = .writeVram x y v :: rest →
      ∃ t, step s = .next t ∧ t = { s with mem := t.mem, host := rest } ∧ t.vram x.toNat y.toNat = v
        ∧ t.hostByte (2 * (1024 * y.toNat + x.toNat)) = v.extractLsb' 0 8
        ∧ t.hostByte (2 * (1024 * y.toNat + x.toNat) + 1) = v.extractLsb' 8 8
        ∧ ∀ a, ¬wordHolds x.toNat y.toNat a → t.hostByte a = s.hostByte a

/-- Reset is the only way out of `HALTED`, and nothing but reset clears a mark: from a state that meets the invariant,
a step that is not the HOST's reset keeps a halted engine halted and keeps both marks (60_exceptions.md R303, R304,
70_reset_and_hazards.md R330). -/
def Obligations.OnlyResetLeavesHaltedOrClearsAMark : Prop :=
  ∀ s t : State, s.Inv → step s = .next t → (∀ rest, s.host ≠ .reset :: rest) →
    (s.seq = .halted → t.seq = .halted) ∧ (s.fault ≠ none → t.fault = s.fault)
      ∧ (s.refused ≠ none → t.refused = s.refused)

/-- An engine that is not idle accepts no command: while `HALTED` no command executes and a step at which the HOST hands
one over, or offers nothing, is stuck; while `BUSY` nothing outside the command has a move (10_state.md R40,
60_exceptions.md R303 point 5, 93_implementation_defined.md U19, U20). -/
def Obligations.EngineNotIdleAcceptsNoCommand : Prop :=
  ∀ s : State,
    (s.seq = .halted →
      (∀ i, exec i s = .fault .halted)
        ∧ (∀ ws rest, s.host = .submit ws :: rest → step s = .fault .halted)
        ∧ (s.host = [] → step s = .fault .halted))
    ∧ (∀ p, s.seq = .busy p → (∀ i, exec i s = .fault .busy) ∧ step s = .fault .busy)

/-- The frame of every command: none changes the parameters, the dither ROM among them, or the HOST's side; only SETAREA
changes `DA`, and SETAREA changes neither VRAM nor a mark (10_state.md R33, R35, 44_control.md R290). -/
def Obligations.OnlySetareaWritesTheArea : Prop :=
  ∀ (i : Instr) (s t : State), exec i s = .next t →
    t.params = s.params ∧ t.host = s.host ∧ t.recordIndex = s.recordIndex ∧ (i.kind ≠ .setarea → t.da = s.da)
      ∧ (i.kind = .setarea → t.mem = s.mem ∧ t.fault = s.fault ∧ t.refused = s.refused)

/-- The invariant holds after power-up over every canonical VRAM. -/
def Obligations.PowerUpMeetsTheInvariant : Prop :=
  ∀ (vram0 : Memory) (p : Params), vram0.wf = true → (State.powerUp vram0 p).Inv

/-- Every step keeps the invariant: VRAM canonical, no command running between steps, the latch empty, halted exactly
when one of the two marks is set, a fault only of a pixel outside VRAM (10_state.md R38, R40, 60_exceptions.md R300, R303,
R304). The parameters stay as they are, so what 10_state.md R37 assumes of the dither parameter stays true. -/
def Obligations.EveryStepKeepsTheInvariant : Prop :=
  ∀ s t : State, s.Inv → step s = .next t → t.Inv ∧ t.params = s.params

/-- Nothing but VRAM, `DA`, the parameters and the engine being idle decides what a command does: two idle states that
agree on those end with the same VRAM, `DA` and sequencer, the same fault, and the same reason of a refusal where they
held the same (10_state.md R39). The position that `REFUSED` records is left out: it is the HOST's `recordIndex` (log 6),
which is no part of what the two states agree on. -/
def Obligations.CommandsCarryNothingButVramAndArea : Prop :=
  ∀ (i : Instr) (s s' : State), s.seq = .idle → s'.seq = .idle → s.mem = s'.mem → s.da = s'.da →
    s.params = s'.params → s.fault = s'.fault →
      ∃ t t', exec i s = .next t ∧ exec i s' = .next t' ∧ t.mem = t'.mem ∧ t.da = t'.da ∧ t.seq = t'.seq
        ∧ t.cl = t'.cl ∧ t.fault = t'.fault
        ∧ (s.refused.map RefusalMark.reason = s'.refused.map RefusalMark.reason →
            t.refused.map RefusalMark.reason = t'.refused.map RefusalMark.reason)

/-- Every launched run ends, of every finite list of records and with VRAM writes of the HOST between them: in a final
state with no mark, whose VRAM and `DA` are its one observation, or halted with a mark and with no observation; and never
refused for an unset drawing area (70_reset_and_hazards.md R332, R338 to R340; 10_state.md R37). How the HOST's queue
holds the records is the model's (log 6), and so is that a refused SETAREA does not count for `LP_AREA` (log 27). -/
def Obligations.EveryLaunchedRunEnds : Prop :=
  ∀ (P : List (List Word)) (v : Memory) (area : DrawArea) (s : State), v.wf = true → Launched P v area s →
    ∃ n t, runEnd n s = some t ∧ t.Inv ∧ (∀ pos, t.refused ≠ some ⟨.daUnset, pos⟩)
      ∧ ((t.Final ∧ t.fault = none ∧ t.refused = none ∧ ∀ o, Observes s o ↔ o = (t.mem, t.da))
        ∨ (t.seq = .halted ∧ (t.fault ≠ none ∨ t.refused ≠ none) ∧ ∀ o, ¬Observes s o))

/-! ### Encoding -/

/-- Every well-formed command's record decodes to the command, with whatever words follow left over
(30_encoding.md R101 to R110, R116). -/
def Obligations.DecodeOfEncodeIsTheCommand : Prop :=
  ∀ (i : Instr) (rest : List Word), WellFormed i = true → decode (encode i ++ rest) = .ok (i, rest)

/-- Every record that is not refused is the encoding of the command it decodes to: no bit is ignored
(30_encoding.md R101 to R111). -/
def Obligations.EncodeOfDecodeIsTheRecord : Prop :=
  ∀ (ws rest : List Word) (i : Instr), decode ws = .ok (i, rest) → encode i ++ rest = ws ∧ WellFormed i = true

/-- The refusal checks and their order: a record is refused with the first reason of the table of 30_encoding.md R111
that holds of its words as numbers, with no VRAM access and no change of `DA`, and is accepted when none does. -/
def Obligations.RefusalFollowsTheTable : Prop :=
  ∀ (daSet : Bool) (h : Word) (ws : List Word),
    (∀ r, decodeWith daSet (h :: ws) = .error r ↔ refusalByTable daSet h ws = some r)
      ∧ ((∃ p, decodeWith daSet (h :: ws) = .ok p) ↔ refusalByTable daSet h ws = none)
      ∧ ∀ (s : State) (rest : List HostAction) (r : RefReason), s.seq = .idle → s.da.set = daSet →
          s.host = .submit (h :: ws) :: rest → refusalByTable daSet h ws = some r →
            ∃ t, step s = .next t ∧ t.mem = s.mem ∧ t.da = s.da ∧ t.refused = some ⟨r, s.recordIndex⟩

/-- The opcode map: the header of a record that decodes matches the row of the command's kind, and no header matches two
rows (30_encoding.md R117). -/
def Obligations.OpcodeMapNamesTheKind : Prop :=
  (∀ (h : Word) (ws rest : List Word) (i : Instr), decode (h :: ws) = .ok (i, rest) →
      h &&& opcodeMask i.kind = opcodeMatch i.kind)
    ∧ (∀ (h : Word) (k k' : Kind), h &&& opcodeMask k = opcodeMatch k → h &&& opcodeMask k' = opcodeMatch k' → k = k')

/-- The record's length is that of its kind and of nothing else: a decoded record has used exactly that many words
(30_encoding.md R102, R116). -/
def Obligations.RecordLengthIsFixedByTheKind : Prop :=
  ∀ (ws rest : List Word) (i : Instr), decode ws = .ok (i, rest) →
    ws.length = i.kind.length + rest.length
      ∧ i.kind.length = match i with
        | .rect _ _ _ _ _ _ => 9
        | .line _ _ _ _ => 9
        | .tri _ _ _ _ _ => 14
        | .quad _ _ _ _ _ _ => 17
        | .setarea _ _ _ _ => 3

/-- Words written out from the spec's tables decode to the commands they stand for: the RECT and the SETAREA of
30_encoding.md R123, and a LINE whose endpoint is at `(-2, 0)` (30_encoding.md R104). -/
def Obligations.ExampleRecordsDecode : Prop :=
  decode [0x00000000, 0x00000000, 0x00000000, 0x00000000, 0x0000FFFF, 0x0014000A, 0x00020002, 0x000000FF, 0x00000000] =
      .ok (.rect ⟨false, false⟩ asmInit ⟨10, 20⟩ ⟨2, 2⟩ ⟨255, 0, 0⟩ ⟨0, 0⟩, [])
    ∧ decode [0x00000004, 0x00000000, 0x01FF03FF] = .ok (.setarea 0 0 1023 511, [])
    ∧ (match decode [0x00000001, 0x00000000, 0x00000000, 0x00000000, 0x0000FFFF, 0x000007FE, 0x000000FF, 0x00000002,
          0x000000FF] with
        | .ok (.line _ _ p0 p1, _) => p0.pos.xInt = -2 ∧ p0.pos.yInt = 0 ∧ p1.pos.xInt = 2
        | _ => False)

/-- Operand assembly: a signed or unsigned operand is accepted exactly when its field can hold it, and then the decoded
value is the operand (30_encoding.md R122). -/
def Obligations.AssembledOperandsDecodeToThemselves : Prop :=
  (∀ (n : Nat) (v : Int) (b : BitVec n), 0 < n → (signedOp n v = some b ↔ b.toInt = v))
    ∧ (∀ (n : Nat) (v : Int) (b : BitVec n), unsignedOp n v = some b ↔ (b.toNat : Int) = v)

/-- Every command that an assembly program emits is well formed, so its record is never refused for its fields
(30_encoding.md R119 to R122). -/
def Obligations.AssembledCommandsAreWellFormed : Prop :=
  ∀ (ls : List AsmLine) (is : List Instr), assemble ls = some is → ∀ i ∈ is, WellFormed i = true

/-! ### SETAREA -/

/-- SETAREA writes the five fields of `DA` together and changes nothing else; it is accepted whether or not `DA.SET = 1`
and never faults (44_control.md R290). -/
def Obligations.SetareaWritesTheArea : Prop :=
  ∀ (l t r b : BitVec 16) (s : State), s.seq = .idle →
    exec (.setarea l t r b) s =
      .next { s with da := { left := l, top := t, right := r, bottom := b, set := true }, cl := none, seq := .idle }

/-! ### Every draw -/

/-- A draw command that starts while `DA.SET = 0` is refused with REF_DA_UNSET, and one with `TEX = 1` and the reserved
texture mode with REF_TMODE; nothing else changes (10_state.md R33). That a meaning itself makes the second check, on a
command that the decoder never hands over, is the model's own deduction (DEDUCED, log 13). -/
def Obligations.DrawWithoutAreaOrModeIsRefused : Prop :=
  ∀ (i : Instr) (s : State), i.kind ≠ .setarea → s.seq = .idle →
    (s.da.set = false →
      exec i s = .next { s with refused := some ⟨.daUnset, s.recordIndex⟩, seq := .halted, cl := none })
    ∧ (s.da.set = true → WellFormed i = false →
      exec i s = .next { s with refused := some ⟨.tmode, s.recordIndex⟩, seq := .halted, cl := none })

/-- Every command on an idle engine ends in exactly one outcome: COMPLETED and DROPPED leave it idle with no mark, DROPPED
changes nothing, REFUSED sets that mark alone and halts, FAULTED halts with the fault's mark and keeps `DA`
(60_exceptions.md R300). That a quad is DROPPED when both its triangles are is the model's reading (log 15). -/
def Obligations.EveryCommandHasOneOutcome : Prop :=
  ∀ (i : Instr) (s : State), s.Inv → s.seq = .idle →
    ∃ t o, exec i s = .next t ∧ commandOutcome i s = some o ∧
      match o with
      | .completed => t.seq = .idle ∧ t.fault = none ∧ t.refused = none ∧ t.cl = none
      | .dropped => t = s
      | .refused r => t = { s with refused := some ⟨r, s.recordIndex⟩, seq := .halted }
      | .faulted x y =>
        t.seq = .halted ∧ t.fault = some ⟨.outOfVram, x, y, i.kind⟩ ∧ t.refused = none ∧ t.da = s.da ∧ t.cl = none

/-- Every VRAM write of every command lies inside the drawing area: every byte of a word outside
`[DA.LEFT, DA.RIGHT] x [DA.TOP, DA.BOTTOM]`, and every byte outside VRAM, is as before, also when the command faults
(10_state.md R34, which the spec marks as derived from the families' clip rules). -/
def Obligations.WritesStayInsideTheArea : Prop :=
  ∀ (i : Instr) (s t : State) (a : Nat), exec i s = .next t →
    (∀ x y : Nat, x < 1024 → y < 512 → wordHolds x y a → (s.da.hasCol (x : Int) && s.da.hasRow (y : Int)) = false) →
      t.hostByte a = s.hostByte a

/-- The mask test: a word with a bit of `MASK_AND` set before a draw is unchanged after it, also if the command meets it
twice (40_pixel_shader.md R157, 20_memory.md R79). -/
def Obligations.MaskedPixelsAreUnchanged : Prop :=
  ∀ (i : Instr) (c : DrawCfg) (s t : State) (x y : Nat), configOf i = some c → exec i s = .next t →
    x < 1024 → y < 512 → s.vram x y &&& c.maskAnd ≠ 0 → t.vram x y = s.vram x y

/-- The interlace filter: with `ILACE = 1` no pixel on a row `y` with `(y & 1) = ALSB` is modified
(41_rectangle.md R181, 42_line.md R209, 43_triangle.md R252). -/
def Obligations.InterlacedRowsAreUnchanged : Prop :=
  ∀ (i : Instr) (c : DrawCfg) (s t : State) (x y : Nat), configOf i = some c → exec i s = .next t →
    x < 1024 → y < 512 → c.ilace = true → y % 2 = c.alsb.toNat → t.vram x y = s.vram x y

/-- An empty drawing area, such as `{0, 0, -1, -1}`: every draw completes and writes nothing
(44_control.md R290, 41_rectangle.md R186). -/
def Obligations.EmptyAreaDrawsNothing : Prop :=
  ∀ (i : Instr) (s : State), i.kind ≠ .setarea → s.ready = true → WellFormed i = true →
    (s.da.r < s.da.l ∨ s.da.b < s.da.t) → exec i s = .next { s with cl := none, seq := .idle }

/-- The fault is precise: when the pixels of a draw begin with `pre`, all inside VRAM, and go on with `g` outside it, the
command ends at `g` with `FAULT = (1, x, y, KIND)` and `SEQ = HALTED`, VRAM is what the pixels of `pre` alone make it, the
rest of the state is as before, no later command is accepted, the state is not final, and the mark and `HALTED` stay until
the HOST's reset (60_exceptions.md R303). -/
def Obligations.FaultIsPreciseAtThePixel : Prop :=
  ∀ (i : Instr) (c : DrawCfg) (s : State) (pre post : List Frag) (g : Frag),
    configOf i = some c → s.ready = true → WellFormed i = true → fragsOf s.params s.da i = pre ++ g :: post →
    (∀ f ∈ pre, inVram f.x f.y = true) → inVram g.x g.y = false →
      exec i s = .next
          { s with
            mem := pre.foldl (shadeMem (shaderOf i s.params c)) s.mem
            fault := some ⟨.outOfVram, g.x, g.y, i.kind⟩
            seq := .halted
            cl := none }
        ∧ ∀ t, exec i s = .next t →
            (∀ j, exec j t = .fault .halted) ∧ ¬t.Final
              ∧ ∀ u, step t = .next u → (∀ rest, t.host ≠ .reset :: rest) → u.fault = t.fault ∧ u.seq = .halted

/-- No draw faults when the drawing area lies in VRAM, and a fault names a pixel inside the area and outside VRAM
(40_pixel_shader.md R160, 10_state.md R32). -/
def Obligations.FaultsOnlyOutsideVram : Prop :=
  ∀ (i : Instr) (s t : State), exec i s = .next t → t.fault ≠ s.fault →
    ¬s.da.InVram ∧ ∃ x y : Int, t.fault = some ⟨.outOfVram, x, y, i.kind⟩ ∧ inVram x y = false
      ∧ s.da.hasCol x = true ∧ s.da.hasRow y = true

/-- Ignored fields: commands that agree but for fields their effective flags make irrelevant draw the same pixels
(30_encoding.md R115, which the spec marks as derived). For a flat LINE whose endpoints are not swapped the second
endpoint's colour is irrelevant: the colour of the endpoint after the swap is from general knowledge (G3, log 20). -/
def Obligations.IgnoredFieldsDrawTheSamePixels : Prop :=
  ∀ s : State, s.ready = true →
    (∀ (f f' : RectFlags) (c c' : DrawCfg) (o : XY) (sz : Size) (col : Color) (uv uv' : UV),
      rectEff f c = rectEff f' c' → SameEffectiveCfg (rectEff f c) c c' → (f.tex = true → uv = uv') →
      WellFormed (.rect f c o sz col uv) = true → WellFormed (.rect f' c' o sz col uv') = true →
        exec (.rect f c o sz col uv) s = exec (.rect f' c' o sz col uv') s)
    ∧ (∀ (f f' : LineFlags) (c c' : DrawCfg) (p0 p1 p1' : LineVertex),
      lineEff f c = lineEff f' c' → SameEffectiveCfg (lineEff f c) c c' → p1.pos = p1'.pos →
      (p1.color = p1'.color ∨ (f.shade = false ∧ (p0.pos.xInt < p1.pos.xInt ∨ p0.pos = p1.pos))) →
        exec (.line f c p0 p1) s = exec (.line f' c' p0 p1') s)
    ∧ (∀ (f f' : PolyFlags) (c c' : DrawCfg) (v0 v1 v2 w0 w1 w2 : Vertex),
      polyEff s.params.untexTriDither f c = polyEff s.params.untexTriDither f' c' →
      SameEffectiveCfg (polyEff s.params.untexTriDither f c) c c' → SameEffectiveVertex f.tex v0 w0 →
      SameEffectiveVertex f.tex v1 w1 → SameEffectiveVertex f.tex v2 w2 →
      WellFormed (.tri f c v0 v1 v2) = true → WellFormed (.tri f' c' w0 w1 w2) = true →
        exec (.tri f c v0 v1 v2) s = exec (.tri f' c' w0 w1 w2) s)
    ∧ (∀ (f f' : PolyFlags) (c c' : DrawCfg) (v0 v1 v2 v3 w0 w1 w2 w3 : Vertex),
      polyEff s.params.untexTriDither f c = polyEff s.params.untexTriDither f' c' →
      SameEffectiveCfg (polyEff s.params.untexTriDither f c) c c' → SameEffectiveVertex f.tex v0 w0 →
      SameEffectiveVertex f.tex v1 w1 → SameEffectiveVertex f.tex v2 w2 → SameEffectiveVertex f.tex v3 w3 →
      WellFormed (.quad f c v0 v1 v2 v3) = true → WellFormed (.quad f' c' w0 w1 w2 w3) = true →
        exec (.quad f c v0 v1 v2 v3) s = exec (.quad f' c' w0 w1 w2 w3) s)

/-- Texel-zero discard: a textured draw all of whose texels are `0x0000` completes and changes nothing, whatever its
modulation, blend mode and masks (40_pixel_shader.md R145). -/
def Obligations.ZeroTexelsDrawNothing : Prop :=
  ∀ (i : Instr) (c : DrawCfg) (s : State), configOf i = some c → s.ready = true → WellFormed i = true →
    (effectiveFlags s.params i).tex = true →
    (∀ f ∈ fragsOf s.params s.da i,
      inVram f.x f.y = true ∧ fetchTexel c s.mem (windowU c f.u) (windowV c f.v) = 0) →
      exec i s = .next { s with cl := none, seq := .idle }

/-- Drawing twice: an untextured opaque draw with `MASK_AND = MASK_OR = 0` that completes leaves the same VRAM words when
it is drawn again (95_test_vectors.md L1-INV5, 90_conflicts.md C11). -/
def Obligations.OpaqueUntexturedDrawIsIdempotent : Prop :=
  ∀ (i : Instr) (c : DrawCfg) (s t : State), configOf i = some c → s.mem.wf = true →
    (effectiveFlags s.params i).tex = false → (effectiveFlags s.params i).trans = false → c.maskAnd = 0 → c.maskOr = 0 →
    exec i s = .next t → t.seq = .idle →
      ∃ u, exec i t = .next u ∧ u.seq = .idle ∧ ∀ x y : Nat, x < 1024 → y < 512 → u.vram x y = t.vram x y

/-- No pixel is shaded twice by one RECT, one LINE or one TRI (41_rectangle.md R185, 42_line.md R212,
43_triangle.md R249, which says of triangles that the spec checked it and did not prove it). -/
def Obligations.NoPixelIsShadedTwice : Prop :=
  ∀ (p : Params) (da : DrawArea) (i : Instr), i.kind ≠ .quad →
    ((fragsOf p da i).map fun f => (f.x, f.y)).Nodup

/-- Every command ends in a bounded number of pixel steps (70_reset_and_hazards.md R339, which the spec marks as
derived). -/
def Obligations.PixelStepsAreBounded : Prop :=
  ∀ (p : Params) (da : DrawArea) (i : Instr),
    match i with
    | .rect _ _ _ sz _ _ => (fragsOf p da i).length ≤ sz.w.toNat * sz.h.toNat
    | .line _ _ _ _ => (fragsOf p da i).length ≤ 1024
    | .tri _ _ _ _ _ => (fragsOf p da i).length ≤ 511 * 1023
    | .quad _ _ _ _ _ _ => (fragsOf p da i).length ≤ 2 * (511 * 1023)
    | .setarea _ _ _ _ => (fragsOf p da i).length = 0

/-! ### The pixel shader -/

/-- The per-channel laws of the blend: for every `fg` with bit 15 set and every `bg` (40_pixel_shader.md R158,
which the spec marks as derived from R151 to R155). -/
def Obligations.BlendFollowsThePerChannelLaws : Prop :=
  ∀ fg bg : Pixel, maskBit fg = true →
    (∀ m, maskBit (blend m fg bg) = true)
    ∧ (∀ ch : Pixel → BitVec 5, ch = red ∨ ch = green ∨ ch = blue →
        (ch (blend .halfHalf fg bg)).toNat = ((ch fg).toNat + (ch bg).toNat) / 2
        ∧ (ch (blend .add fg bg)).toNat = min 31 ((ch fg).toNat + (ch bg).toNat)
        ∧ (ch (blend .sub fg bg)).toNat = (ch bg).toNat - (ch fg).toNat
        ∧ (ch (blend .quarterAdd fg bg)).toNat = min 31 ((ch bg).toNat + (ch fg).toNat / 4))

/-- The packed colours as the rules write them, with shifts and ors of numbers, for every table `L`: a modulated texel and
an untextured colour (40_pixel_shader.md R147, R149). -/
def Obligations.ColoursArePackedAsWritten : Prop :=
  ∀ (lut : Nat → BitVec 5) (texel : Pixel) (r g b : Byte) (trans : Bool),
    (modulate lut texel r g b).toNat =
        (lut (((texel.toNat &&& 31) * r.toNat) >>> 4)).toNat
          ||| (lut (((texel.toNat >>> 5 &&& 31) * g.toNat) >>> 4)).toNat <<< 5
          ||| (lut (((texel.toNat >>> 10 &&& 31) * b.toNat) >>> 4)).toNat <<< 10
          ||| (texel.toNat &&& 0x8000)
      ∧ (flatColor lut trans r g b).toNat =
        (lut r.toNat).toNat ||| (lut g.toNat).toNat <<< 5 ||| (lut b.toNat).toNat <<< 10
          ||| (if trans then 0x8000 else 0)

/-- Add is symmetric as packed RGB, bit 15 left out, for all words (95_test_vectors.md L1-INV6). -/
def Obligations.AddBlendIsSymmetric : Prop :=
  ∀ a b : Pixel, blend .add a b &&& 0x7FFF = blend .add b a &&& 0x7FFF

/-- The word a pixel is given. Untextured, its bit 15 is that of `MASK_OR`, whether or not it blends (40_pixel_shader.md
R156). In every form: none when the mask test hits (R157) or the texel is 0 (R145); otherwise the colour with all bits of
`MASK_OR`, where the colour is the raw texel (R148), the modulated one (R147) or the untextured one (R149), dithered by
R146, and is blended, under TRANS, exactly when the TEXEL has bit 15 set or there is none (R151, R156). -/
def Obligations.UntexturedWordsKeepBit15Clear : Prop :=
  ∀ (sh : Shader) (m : Memory) (f : Frag),
    (∀ w : Pixel, sh.eff.tex = false → pixelWord sh m f = some w → maskBit w = maskBit sh.cfg.maskOr)
    ∧ ∀ (bg texel colour : Pixel) (lut : Nat → BitVec 5),
      bg = m.vread f.x.toNat f.y.toNat →
      texel = fetchTexel sh.cfg m (windowU sh.cfg f.u) (windowV sh.cfg f.v) →
      lut = ditherLut sh.dither (if sh.eff.dith then (f.y % 4).toNat else 2) (if sh.eff.dith then (f.x % 4).toNat else 3) →
      colour = (if sh.eff.raw then texel else modulate lut texel f.r f.g f.b) →
        (bg &&& sh.cfg.maskAnd ≠ 0 → pixelWord sh m f = none)
        ∧ (sh.eff.tex = true → texel = 0 → pixelWord sh m f = none)
        ∧ (bg &&& sh.cfg.maskAnd = 0 → sh.eff.tex = true → texel ≠ 0 →
            (sh.eff.trans = false ∨ maskBit texel = false → pixelWord sh m f = some (colour ||| sh.cfg.maskOr))
            ∧ (sh.eff.trans = true → maskBit texel = true →
                pixelWord sh m f = some (blend sh.cfg.bmode colour bg ||| sh.cfg.maskOr)))
        ∧ (bg &&& sh.cfg.maskAnd = 0 → sh.eff.tex = false →
            (sh.eff.trans = false → pixelWord sh m f = some (flatColor lut false f.r f.g f.b ||| sh.cfg.maskOr))
            ∧ (sh.eff.trans = true →
                pixelWord sh m f =
                  some ((blend sh.cfg.bmode (flatColor lut true f.r f.g f.b) bg &&& 0x7FFF) ||| sh.cfg.maskOr)))

/-- With the default matrix an undithered channel is `min(31, v >> 3)` for every 9-bit `v`, and modulation by 128 is the
identity on texels (10_state.md R36, 40_pixel_shader.md R147); the matrix is from general knowledge (G1, log 20). The
default matrix meets what 10_state.md R37 has a model assume, and under every matrix that meets it the two scenarios R37
names come out: undithered (255, 0, 0) is `0x001F`, and the texel `0x7FFF` modulated by 255 stays `0x7FFF`. -/
def Obligations.UnditheredModulationBy128IsTheIdentity : Prop :=
  (∀ v : Nat, v < 512 → (ditherLut defaultDitherMatrix 2 3 v).toNat = min 31 (v / 8))
    ∧ (∀ texel : Pixel, modulate (ditherLut defaultDitherMatrix 2 3) texel 128 128 128 = texel)
    ∧ DitherAdmissible defaultParams
    ∧ ∀ p : Params, DitherAdmissible p →
        flatColor (ditherLut p.ditherMatrix 2 3) false 255 0 0 = 0x001F
          ∧ modulate (ditherLut p.ditherMatrix 2 3) 0x7FFF 255 255 255 = 0x7FFF

/-- A texel fetch reads the words that the rules write, wrapped: in the palette modes the page word
`((PAGEX + TU/4 or TU/2) mod 1024, (PAGEY + TV) mod 512)` and then the entry `((CLUTX + IDX) mod 1024, CLUTY)`, in the
direct mode `((PAGEX + TU) mod 1024, (PAGEY + TV) mod 512)`, at the windowed coordinates; the last one is the texel, and
every word read lies in VRAM (20_memory.md R71, 40_pixel_shader.md R141 to R144). The order of palette indices in a page
word is from general knowledge (G2, log 20). -/
def Obligations.TextureReadsWrapIntoVram : Prop :=
  ∀ (c : DrawCfg) (m : Memory) (u v : Byte),
    (∀ p ∈ texelReads c m u v, p.1 < 1024 ∧ p.2 < 512)
      ∧ (∀ p, (texelReads c m u v).getLast? = some p → fetchTexel c m u v = m.vread p.1 p.2)
      ∧ (c.tmode ≠ .reserved → texelReads c m u v ≠ [])
      ∧ (c.tmode = .palette4 ∨ c.tmode = .palette8 →
          texelReads c m (windowU c u) (windowV c v) = [rulePage c u v, ruleEntry c m u v]
            ∧ fetchTexel c m (windowU c u) (windowV c v) = m.vread (ruleEntry c m u v).1 (ruleEntry c m u v).2)
      ∧ (c.tmode = .direct15 →
          texelReads c m (windowU c u) (windowV c v) = [rulePage c u v]
            ∧ fetchTexel c m (windowU c u) (windowV c v) = m.vread (rulePage c u v).1 (rulePage c u v).2)

/-- Palette indices are least significant first: index `u mod 4` of a 4-bit page word is bits `[4i+3:4i]`, index `u mod 2`
of an 8-bit one bits `[8i+7:8i]` (20_memory.md R75, an order the spec takes from general knowledge, log 20). -/
def Obligations.PaletteIndicesAreLeastSignificantFirst : Prop :=
  ∀ (w : Pixel) (u : Byte),
    index4 w u = (w.extractLsb' (4 * (u.toNat % 4)) 4).toNat
      ∧ index8 w u = (w.extractLsb' (8 * (u.toNat % 2)) 8).toNat

/-! ### RECT -/

/-- RECT completes in every form, self-texturing among them, when every pixel it covers lies in VRAM: only VRAM changes,
and every byte of a word the rectangle does not cover is as before (41_rectangle.md R180 to R182). -/
def Obligations.RectCompletesInsideItsFootprint : Prop :=
  ∀ (f : RectFlags) (c : DrawCfg) (o : XY) (sz : Size) (col : Color) (uv : UV) (s : State),
    s.ready = true → WellFormed (.rect f c o sz col uv) = true →
    (∀ x y : Int, rectCovers s.da c o sz x y = true → inVram x y = true) →
      ∃ t, exec (.rect f c o sz col uv) s = .next t ∧ DrewOnly s t
        ∧ ∀ a : Nat,
          (∀ x y : Nat, x < 1024 → y < 512 → wordHolds x y a → rectCovers s.da c o sz (x : Int) (y : Int) = false) →
            t.hostByte a = s.hostByte a

/-- RECT's pixels: unless it textures from what it draws, every covered word ends as the shader makes it from the VRAM
before the command, with the texture coordinates `(u0 + ox) & 0xFF` and `(v0 + oy) & 0xFF`, and every other word is as
before (41_rectangle.md R180 to R185, 40_pixel_shader.md R159). -/
def Obligations.RectDrawsExactlyItsPixels : Prop :=
  ∀ (f : RectFlags) (c : DrawCfg) (o : XY) (sz : Size) (col : Color) (uv : UV) (s : State),
    s.ready = true → WellFormed (.rect f c o sz col uv) = true →
    (∀ x y : Int, rectCovers s.da c o sz x y = true → inVram x y = true) →
    s.mem.wf = true →
    NoSelfTexture (rectShader f c s) s.mem (rectFrags s.da c o sz col uv) →
      ∃ t, exec (.rect f c o sz col uv) s = .next t ∧ DrewOnly s t
        ∧ ∀ x y : Nat, x < 1024 → y < 512 →
          t.vram x y =
            if rectCovers s.da c o sz (x : Int) (y : Int) then
              wordAfter (rectShader f c s) s.mem (rectCall o col uv (x : Int) (y : Int))
            else s.vram x y

/-- Rows in order, each reading what the earlier ones wrote: a rectangle of `h + k` rows leaves the state that the
rectangle of its first `h` rows leaves followed by the one of the last `k`, whose origin and texture row are `h` lower,
self-texturing or not (41_rectangle.md R183, R185, 20_memory.md R80). -/
def Obligations.RectIsItsRowsInOrder : Prop :=
  ∀ (f : RectFlags) (c : DrawCfg) (o o' : XY) (w : BitVec 10) (h k hk : BitVec 9) (col : Color) (uv uv' : UV) (s : State),
    s.ready = true → WellFormed (.rect f c o ⟨w, hk⟩ col uv) = true →
    (∀ x y : Int, rectCovers s.da c o ⟨w, hk⟩ x y = true → inVram x y = true) →
    hk.toNat = h.toNat + k.toNat → o'.xInt = o.xInt → o'.yInt = o.yInt + (h.toNat : Int) → uv'.u = uv.u →
    uv'.v.toNat = (uv.v.toNat + h.toNat) % 256 →
      ∃ t1 t2, exec (.rect f c o ⟨w, h⟩ col uv) s = .next t1 ∧ exec (.rect f c o' ⟨w, k⟩ col uv') t1 = .next t2
        ∧ exec (.rect f c o ⟨w, hk⟩ col uv) s = .next t2

/-! ### LINE -/

/-- A line with `|x1 - x0| >= 1024` or `|y1 - y0| >= 512` is dropped with no VRAM access and no mark, and every other has
`K <= 1023` (42_line.md R201). -/
def Obligations.OversizedLineIsDropped : Prop :=
  ∀ (f : LineFlags) (c : DrawCfg) (p0 p1 : LineVertex) (s : State), s.ready = true →
    (1024 ≤ |p1.pos.xInt - p0.pos.xInt| ∨ 512 ≤ |p1.pos.yInt - p0.pos.yInt| →
      exec (.line f c p0 p1) s = .next { s with cl := none, seq := .idle })
    ∧ (|p1.pos.xInt - p0.pos.xInt| < 1024 → |p1.pos.yInt - p0.pos.yInt| < 512 →
      lineTooLong p0 p1 = false ∧ lineK p0 p1 = max |p1.pos.xInt - p0.pos.xInt| |p1.pos.yInt - p0.pos.yInt|
        ∧ lineK p0 p1 ≤ 1023)

/-- LINE's pixels: a line that is not dropped and none of whose drawn pixels is outside VRAM completes; at every step
`i <= K` whose pixel passes the tests, the word there ends as the shader makes it, in the colour of that step, from the
VRAM before the command; every other word is as before (42_line.md R200, R206 to R211; the flat colour's endpoint, the
colour start and the extraction are from general knowledge, G3 to G5, log 20). -/
def Obligations.LineDrawsExactlyItsSteps : Prop :=
  ∀ (f : LineFlags) (c : DrawCfg) (p0 p1 : LineVertex) (s : State), s.ready = true → s.mem.wf = true →
    lineTooLong p0 p1 = false →
    (∀ i : Nat, (i : Int) ≤ lineK p0 p1 →
      linePixelDrawn s.da c (lineCall f.shade p0 p1 i).x (lineCall f.shade p0 p1 i).y = true →
        inVram (lineCall f.shade p0 p1 i).x (lineCall f.shade p0 p1 i).y = true) →
      ∃ t, exec (.line f c p0 p1) s = .next t ∧ DrewOnly s t
        ∧ (∀ i : Nat, (i : Int) ≤ lineK p0 p1 →
            linePixelDrawn s.da c (lineCall f.shade p0 p1 i).x (lineCall f.shade p0 p1 i).y = true →
              t.vram (lineCall f.shade p0 p1 i).x.toNat (lineCall f.shade p0 p1 i).y.toNat =
                wordAfter (lineShader f c s) s.mem (lineCall f.shade p0 p1 i))
        ∧ ∀ a : Nat,
          (∀ (i x y : Nat), (i : Int) ≤ lineK p0 p1 → x < 1024 → y < 512 → wordHolds x y a →
              (lineCall f.shade p0 p1 i).x = (x : Int) → (lineCall f.shade p0 p1 i).y = (y : Int) →
                linePixelDrawn s.da c (x : Int) (y : Int) = false) →
            t.hostByte a = s.hostByte a

/-- Both endpoints are visited: step 0 is at the walked line's start and step `K` at its end, modulo 2048
(42_line.md R208, R211). -/
def Obligations.LineVisitsBothEndpoints : Prop :=
  ∀ (shade : Bool) (p0 p1 : LineVertex), lineTooLong p0 p1 = false →
    (lineCall shade p0 p1 0).x = (canonical p0 p1).1.pos.xInt % 2048
      ∧ (lineCall shade p0 p1 0).y = (canonical p0 p1).1.pos.yInt % 2048
      ∧ (lineCall shade p0 p1 (lineK p0 p1).toNat).x = (canonical p0 p1).2.pos.xInt % 2048
      ∧ (lineCall shade p0 p1 (lineK p0 p1).toNat).y = (canonical p0 p1).2.pos.yInt % 2048

/-- A shaded line's channel lies between its endpoints' at every step, so its accumulator's byte is never wrapped
(42_line.md R210; the extraction is from general knowledge, log 20). -/
def Obligations.LineColourStaysBetweenItsEnds : Prop :=
  ∀ (c0 c1 : Byte) (k : Int) (i : Nat), 0 < k → (i : Int) ≤ k →
    min c0.toNat c1.toNat ≤ (lineChannel (startColor c0 + (i : Int) * stepColor true c0 c1 k)).toNat
      ∧ (lineChannel (startColor c0 + (i : Int) * stepColor true c0 c1 k)).toNat ≤ max c0.toNat c1.toNat
      ∧ asr (startColor c0 + (i : Int) * stepColor true c0 c1 k) 12 =
        ((lineChannel (startColor c0 + (i : Int) * stepColor true c0 c1 k)).toNat : Int)

/-- The line engine's registers stay inside the widths that 10_state.md R43 declares, at every step of every line that is
not dropped (42_line.md R203 to R208): s64 positions and steps, s32 colours and colour steps. The colour start is from
general knowledge (G4, log 20). -/
def Obligations.LineRegistersNeverWrap : Prop :=
  ∀ (shade : Bool) (p0 p1 : LineVertex) (i : Nat), lineTooLong p0 p1 = false → (i : Int) ≤ lineK p0 p1 + 1 →
    (∀ v ∈ [(lineRegsAt shade p0 p1 i).dxdk, (lineRegsAt shade p0 p1 i).dydk], |v| ≤ 2 ^ 32)
      ∧ (∀ v ∈ [(lineRegsAt shade p0 p1 i).curx, (lineRegsAt shade p0 p1 i).cury], |v| < 2 ^ 63)
      ∧ (∀ v ∈ [(lineRegsAt shade p0 p1 i).drdk, (lineRegsAt shade p0 p1 i).dgdk, (lineRegsAt shade p0 p1 i).dbdk,
            (lineRegsAt shade p0 p1 i).curr, (lineRegsAt shade p0 p1 i).curg, (lineRegsAt shade p0 p1 i).curb],
          |v| < 2 ^ 31)

/-! ### TRI and QUAD -/

/-- The sorted vertices: in ascending y, the same three vertices as given; `CORE` is 0, 1 or 2 as the mask says, and `V[CORE]`
is the given vertex that the core mask named before the sort, which has the smallest x (43_triangle.md R232 to R234). The
comparisons of R232 and the exchanges of R233 are from general knowledge (G7, log 20). -/
def Obligations.SortKeepsTheCoreVertex : Prop :=
  ∀ a b c : TriVertex,
    (sortY a b c).v0.y ≤ (sortY a b c).v1.y ∧ (sortY a b c).v1.y ≤ (sortY a b c).v2.y
      ∧ (((sortY a b c).cvm = 0b001#3 ∧ (sortY a b c).core = 0) ∨ ((sortY a b c).cvm = 0b010#3 ∧ (sortY a b c).core = 1)
        ∨ ((sortY a b c).cvm = 0b100#3 ∧ (sortY a b c).core = 2))
      ∧ [(sortY a b c).v0, (sortY a b c).v1, (sortY a b c).v2].Perm [a, b, c]
      ∧ (sortY a b c).coreVertex =
        (if coreMask a.x b.x c.x = 0b001#3 then a else if coreMask a.x b.x c.x = 0b010#3 then b else c)
      ∧ (sortY a b c).coreVertex.x = min a.x (min b.x c.x)

/-- A triangle is dropped exactly when it is flat, oversized or collinear, in terms of the vertices as given; dropped, the
command completes and changes nothing (43_triangle.md R235, R236, R241). -/
def Obligations.DegenerateTriangleIsDropped : Prop :=
  ∀ v0 v1 v2 : Vertex,
    (DegenerateTriangle v0 v1 v2 → (sortedOf v0 v1 v2).dropped = true)
    ∧ (¬DegenerateTriangle v0 v1 v2 → (sortedOf v0 v1 v2).dropped = false)
    ∧ ∀ (f : PolyFlags) (c : DrawCfg) (s : State), s.ready = true → WellFormed (.tri f c v0 v1 v2) = true →
        DegenerateTriangle v0 v1 v2 → exec (.tri f c v0 v1 v2) s = .next { s with cl := none, seq := .idle }

/-- A disabled attribute is constant over a triangle and equal to the core vertex's: the colours without SHADE, the
texture coordinates without TEX (43_triangle.md R244). Which vertex is the core one is from general knowledge (G7,
log 20). -/
def Obligations.DisabledAttributesAreTheCoreVertexs : Prop :=
  ∀ (da : DrawArea) (cfg : DrawCfg) (f : PolyFlags) (second : Bool) (a b c : Vertex),
    ∀ g ∈ triangleFrags da cfg f second a b c,
      (f.shade = false → g.r = (sortedOf a b c).coreVertex.r ∧ g.g = (sortedOf a b c).coreVertex.g
        ∧ g.b = (sortedOf a b c).coreVertex.b)
      ∧ (f.tex = false → g.u = (sortedOf a b c).coreVertex.u ∧ g.v = (sortedOf a b c).coreVertex.v)

/-- The closed form of the attributes: every pixel a triangle shades carries the top bytes of
`IG + DDX * x + DDY * y`, whatever the clip and the walk order (43_triangle.md R257, which the spec marks as
derived; the core vertex and the truncated gradients are from general knowledge, G7 and G8, log 20). -/
def Obligations.TriangleAttributesHaveTheClosedForm : Prop :=
  ∀ (da : DrawArea) (cfg : DrawCfg) (f : PolyFlags) (second : Bool) (a b c : Vertex),
    ∀ g ∈ triangleFrags da cfg f second a b c,
      g = { triCall ((sortedOf a b c).planes f.shade f.tex) g.x g.y with pos := g.pos }

/-- Coverage: a pixel is shaded by a triangle exactly when its row is one of a half, passes the area and interlace tests,
and its column lies in `[lc >> 32, rc >> 32)` of the row's stepped bounds and in the area (43_triangle.md R260,
which the spec marks as derived; the bounds rest on general knowledge, G6, G9 and G10, log 20). -/
def Obligations.TriangleCoverageIsTheSteppedBounds : Prop :=
  ∀ (da : DrawArea) (cfg : DrawCfg) (f : PolyFlags) (second : Bool) (a b c : Vertex) (x y : Int),
    (∃ g ∈ triangleFrags da cfg f second a b c, g.x = x ∧ g.y = y) ↔ triCovers da cfg (sortedOf a b c) x y = true

/-- No triangle leaves its bounding box: every pixel shaded has `min x <= x < max x` and `min y <= y < max y` over the
three vertices (43_triangle.md R260, which the spec evaluated and did not prove, 95_test_vectors.md
L1-INV1; the bounds rest on general knowledge, G6, G9 and G10, log 20). -/
def Obligations.TriangleStaysInItsBoundingBox : Prop :=
  ∀ (da : DrawArea) (cfg : DrawCfg) (f : PolyFlags) (second : Bool) (a b c : Vertex),
    ∀ g ∈ triangleFrags da cfg f second a b c,
      min a.pos.xInt (min b.pos.xInt c.pos.xInt) ≤ g.x ∧ g.x < max a.pos.xInt (max b.pos.xInt c.pos.xInt)
        ∧ min a.pos.yInt (min b.pos.yInt c.pos.yInt) ≤ g.y ∧ g.y < max a.pos.yInt (max b.pos.yInt c.pos.yInt)

/-- The triangle engine's registers stay inside their widths for every triangle that is not dropped: bounds and steps
below `2^52` at every row, `DEN`, the cross terms and the products before the division in s32 (43_triangle.md R259,
which the spec marks as derived; the bounds rest on general knowledge, G6, G9 and G10, log 20). The bullet on the u32
registers is their type. -/
def Obligations.TriangleRegistersNeverWrap : Prop :=
  ∀ (a b c : Vertex) (attr : TriVertex → Byte), (sortedOf a b c).dropped = false →
    (∀ h ∈ [(sortedOf a b c).upper, (sortedOf a b c).lower],
        |h.xsL| < 2 ^ 52 ∧ |h.xsR| < 2 ^ 52
          ∧ ∀ y : Int, min h.yc h.yb ≤ y → y ≤ max h.yc h.yb →
              |h.xcL + (y - h.yc) * h.xsL| < 2 ^ 52 ∧ |h.xcR + (y - h.yc) * h.xsR| < 2 ^ 52)
      ∧ |(sortedOf a b c).den| < 2 ^ 31
      ∧ |(sortedOf a b c).calcis (fun w => byteInt (attr w)) TriVertex.y * 4096| < 2 ^ 31
      ∧ |(sortedOf a b c).calcis TriVertex.x (fun w => byteInt (attr w)) * 4096| < 2 ^ 31

/-- TRI completes in every form, self-texturing among them, when every pixel it covers lies in VRAM: only VRAM changes,
and every byte of a word the triangle does not cover is as before (43_triangle.md R230, R260). -/
def Obligations.TriCompletesInsideItsCoverage : Prop :=
  ∀ (f : PolyFlags) (c : DrawCfg) (v0 v1 v2 : Vertex) (s : State),
    s.ready = true → WellFormed (.tri f c v0 v1 v2) = true →
    (∀ x y : Int, triCovers s.da c (sortedOf v0 v1 v2) x y = true → inVram x y = true) →
      ∃ t, exec (.tri f c v0 v1 v2) s = .next t ∧ DrewOnly s t
        ∧ ∀ a : Nat,
          (∀ x y : Nat, x < 1024 → y < 512 → wordHolds x y a →
              triCovers s.da c (sortedOf v0 v1 v2) (x : Int) (y : Int) = false) →
            t.hostByte a = s.hostByte a

/-- TRI's pixels: unless it textures from what it draws, every covered word ends as the shader makes it from the VRAM
before the command, with the attributes in closed form, and every other word is as before (43_triangle.md R230, R257,
R260, 40_pixel_shader.md R159; coverage and attributes rest on general knowledge, G6 to G10, log 20). -/
def Obligations.TriDrawsExactlyItsPixels : Prop :=
  ∀ (f : PolyFlags) (c : DrawCfg) (v0 v1 v2 : Vertex) (s : State),
    s.ready = true → WellFormed (.tri f c v0 v1 v2) = true →
    (∀ x y : Int, triCovers s.da c (sortedOf v0 v1 v2) x y = true → inVram x y = true) →
    s.mem.wf = true →
    NoSelfTexture (polyShader f c s) s.mem (triangleFrags s.da c f false v0 v1 v2) →
      ∃ t, exec (.tri f c v0 v1 v2) s = .next t ∧ DrewOnly s t
        ∧ ∀ x y : Nat, x < 1024 → y < 512 →
          t.vram x y =
            if triCovers s.da c (sortedOf v0 v1 v2) (x : Int) (y : Int) then
              wordAfter (polyShader f c s) s.mem
                (triCall ((sortedOf v0 v1 v2).planes f.shade f.tex) (x : Int) (y : Int))
            else s.vram x y

/-- QUAD is its two triangles, one after the other, the second as `P_QUAD_ORDER` says; the second sees every write of the
first, and dropping one does not drop the other (43_triangle.md R261, R262). -/
def Obligations.QuadIsItsTwoTriangles : Prop :=
  ∀ (f : PolyFlags) (c : DrawCfg) (v0 v1 v2 v3 : Vertex) (s : State),
    s.ready = true → WellFormed (.quad f c v0 v1 v2 v3) = true →
    (∀ x y : Int, triCovers s.da c (sortedOf v0 v1 v2) x y = true → inVram x y = true) →
    (∀ x y : Int,
      triCovers s.da c (if s.params.quadOrder = .o123 then sortedOf v1 v2 v3 else sortedOf v2 v1 v3) x y = true →
        inVram x y = true) →
      ∃ t1 t2, exec (.tri f c v0 v1 v2) s = .next t1
        ∧ exec (if s.params.quadOrder = .o123 then .tri f c v1 v2 v3 else .tri f c v2 v1 v3) t1 = .next t2
        ∧ exec (.quad f c v0 v1 v2 v3) s = .next t2 ∧ DrewOnly s t2

/-- A fault in a quad's first triangle ends the command: the second is not drawn, and the mark is the first's but for the
kind (43_triangle.md R261, 60_exceptions.md R303). -/
def Obligations.FaultInTheFirstTriangleEndsTheQuad : Prop :=
  ∀ (f : PolyFlags) (c : DrawCfg) (v0 v1 v2 v3 : Vertex) (s t : State) (x y : Int),
    s.ready = true → WellFormed (.quad f c v0 v1 v2 v3) = true → exec (.tri f c v0 v1 v2) s = .next t →
    t.seq = .halted → t.fault = some ⟨.outOfVram, x, y, .tri⟩ →
      exec (.quad f c v0 v1 v2 v3) s = .next { t with fault := some ⟨.outOfVram, x, y, .quad⟩ }
end

