-- ==== Sys2Proof/Laws/Memory.lean ====
section
/-!
SUPPORT. The laws of VRAM: reading after writing, the canonical form, and that equal reads make equal memories.
-/

namespace Sys2Proof.Machine

open Sys2Proof.Config

@[simp] theorem Memory.read_nil (a : Nat) : Memory.read [] a = unlistedByte := rfl

theorem Memory.read_cons (b : Nat) (w : BitVec 8) (m : Memory) (a : Nat) :
    Memory.read ((b, w) :: m) a = if b = a then w else m.read a := rfl

/-- What the canonical form from `lo` says of a list with a first entry. -/
theorem Memory.wfFrom_cons {lo b : Nat} {w : BitVec 8} {m : Memory} :
    Memory.wfFrom lo ((b, w) :: m) = true ↔
      lo ≤ b ∧ b < vramBytes ∧ w ≠ unlistedByte ∧ Memory.wfFrom (b + 1) m = true := by
  simp only [Memory.wfFrom, Bool.and_eq_true, decide_eq_true_eq, and_assoc]

/-- A lower start keeps the canonical form. -/
theorem Memory.wfFrom_mono {lo lo' : Nat} {m : Memory} (h : Memory.wfFrom lo m = true) (hl : lo' ≤ lo) :
    Memory.wfFrom lo' m = true := by
  cases m with
  | nil => rfl
  | cons c m =>
    obtain ⟨b, w⟩ := c
    rw [Memory.wfFrom_cons] at h ⊢
    exact ⟨hl.trans h.1, h.2⟩

/-- An address below every entry reads as unlisted. -/
theorem Memory.read_of_wfFrom {lo a : Nat} {m : Memory} (h : Memory.wfFrom lo m = true) (ha : a < lo) :
    m.read a = unlistedByte := by
  induction m generalizing lo with
  | nil => rfl
  | cons c m ih =>
    obtain ⟨b, w⟩ := c
    rw [Memory.wfFrom_cons] at h
    rw [Memory.read_cons, if_neg (by omega)]
    exact ih h.2.2.2 (by omega)

/-- A write leaves every other address as it was. -/
theorem Memory.read_write_ne {m : Memory} {a b : Nat} {v : BitVec 8} (h : b ≠ a) :
    (m.write a v).read b = m.read b := by
  induction m with
  | nil =>
    unfold Memory.write
    split
    · rfl
    · rw [Memory.read_cons, if_neg (Ne.symm h)]
  | cons c m ih =>
    obtain ⟨k, w⟩ := c
    unfold Memory.write
    split
    · rw [Memory.read_cons, Memory.read_cons, ih]
    · split
      · subst k
        split
        · rw [Memory.read_cons, if_neg (Ne.symm h)]
        · rw [Memory.read_cons, Memory.read_cons, if_neg (Ne.symm h), if_neg (Ne.symm h)]
      · split
        · rfl
        · rw [Memory.read_cons, if_neg (Ne.symm h)]

/-- A write in canonical memory is read back. -/
theorem Memory.read_write_same {lo : Nat} {m : Memory} {a : Nat} {v : BitVec 8} (h : Memory.wfFrom lo m = true) :
    (m.write a v).read a = v := by
  induction m generalizing lo with
  | nil =>
    unfold Memory.write
    split
    · rename_i hv; rw [hv]; rfl
    · rw [Memory.read_cons, if_pos rfl]
  | cons c m ih =>
    obtain ⟨k, w⟩ := c
    rw [Memory.wfFrom_cons] at h
    unfold Memory.write
    split
    · rw [Memory.read_cons, if_neg (by omega), ih h.2.2.2]
    · split
      · split
        · rename_i hv; rw [hv]; exact Memory.read_of_wfFrom h.2.2.2 (by omega)
        · rw [Memory.read_cons, if_pos rfl]
      · split
        · rename_i hv
          rw [hv, Memory.read_cons, if_neg (by omega)]
          exact Memory.read_of_wfFrom h.2.2.2 (by omega)
        · rw [Memory.read_cons, if_pos rfl]

/-- A write inside VRAM keeps the canonical form. -/
theorem Memory.wfFrom_write {lo : Nat} {m : Memory} {a : Nat} {v : BitVec 8} (h : Memory.wfFrom lo m = true)
    (hl : lo ≤ a) (ha : a < vramBytes) : Memory.wfFrom lo (m.write a v) = true := by
  induction m generalizing lo with
  | nil =>
    unfold Memory.write
    split
    · rfl
    · rename_i hv
      rw [Memory.wfFrom_cons]
      exact ⟨hl, ha, hv, rfl⟩
  | cons c m ih =>
    obtain ⟨k, w⟩ := c
    have h' := h
    rw [Memory.wfFrom_cons] at h
    unfold Memory.write
    split
    · rw [Memory.wfFrom_cons]
      exact ⟨h.1, h.2.1, h.2.2.1, ih h.2.2.2 (by omega)⟩
    · split
      · split
        · exact Memory.wfFrom_mono h.2.2.2 (by omega)
        · rename_i hk hv
          rw [Memory.wfFrom_cons]
          exact ⟨hl, ha, hv, Memory.wfFrom_mono h.2.2.2 (by omega)⟩
      · split
        · exact h'
        · rename_i hv
          rw [Memory.wfFrom_cons]
          refine ⟨hl, ha, hv, ?_⟩
          rw [Memory.wfFrom_cons]
          exact ⟨by omega, h.2⟩

/-- A write inside VRAM keeps the canonical form. -/
theorem Memory.wf_write {m : Memory} {a : Nat} {v : BitVec 8} (h : m.wf = true) (ha : a < vramBytes) :
    (m.write a v).wf = true := Memory.wfFrom_write h (Nat.zero_le a) ha

/-! ### Words -/

theorem vramAddr_lt {x y : Nat} (hx : x < vramWidth) (hy : y < vramHeight) : vramAddr x y + 1 < vramBytes := by
  simp only [vramAddr, vramWidth, vramHeight, vramBytes] at *; omega

/-- Different words have different, even addresses. -/
theorem vramAddr_inj {x y x' y' : Nat} (hx : x < vramWidth) (hx' : x' < vramWidth)
    (h : vramAddr x y = vramAddr x' y') : x = x' ∧ y = y' := by
  simp only [vramAddr, vramWidth] at *; omega

theorem vramAddr_even (x y : Nat) : vramAddr x y % 2 = 0 := by simp only [vramAddr]; omega

/-- A word write keeps the canonical form. -/
theorem Memory.wf_vwrite {m : Memory} {x y : Nat} {v : Pixel} (h : m.wf = true) (hx : x < vramWidth)
    (hy : y < vramHeight) : (m.vwrite x y v).wf = true := by
  have ha := vramAddr_lt hx hy
  exact Memory.wf_write (Memory.wf_write h (by omega)) ha

/-- A word write leaves the bytes of every other word as they were. -/
theorem Memory.read_vwrite_ne {m : Memory} {x y a : Nat} {v : Pixel} (h0 : a ≠ vramAddr x y)
    (h1 : a ≠ vramAddr x y + 1) : (m.vwrite x y v).read a = m.read a := by
  unfold Memory.vwrite Memory.write16
  rw [Memory.read_write_ne h1, Memory.read_write_ne h0]

/-- The two halves of a word make the word. -/
theorem append_halves (v : BitVec 16) : v.extractLsb' 8 8 ++ v.extractLsb' 0 8 = v := by
  apply BitVec.eq_of_getLsbD_eq
  intro i hi
  simp only [BitVec.getLsbD_append, BitVec.getLsbD_extractLsb']
  by_cases h : i < 8
  · simp [h]
  · have h8 : i - 8 < 8 := by omega
    simp [h, h8, show 8 + (i - 8) = i by omega]

/-- A word written in canonical memory is read back. -/
theorem Memory.vread_vwrite_same {m : Memory} {x y : Nat} {v : Pixel} (h : m.wf = true) (hx : x < vramWidth)
    (hy : y < vramHeight) : (m.vwrite x y v).vread x y = v := by
  have ha := vramAddr_lt hx hy
  unfold Memory.vread Memory.read16 Memory.vwrite Memory.write16
  rw [Memory.read_write_same (Memory.wf_write h (by omega)), Memory.read_write_ne (by omega),
    Memory.read_write_same h, append_halves]

/-- A word write leaves every other word as it was. -/
theorem Memory.vread_vwrite_ne {m : Memory} {x y x' y' : Nat} {v : Pixel} (hx : x < vramWidth) (hx' : x' < vramWidth)
    (h : ¬(x' = x ∧ y' = y)) : (m.vwrite x y v).vread x' y' = m.vread x' y' := by
  have he := vramAddr_even x y
  have he' := vramAddr_even x' y'
  have hne : vramAddr x' y' ≠ vramAddr x y := fun hc => h (vramAddr_inj hx' hx hc)
  unfold Memory.vread Memory.read16
  rw [Memory.read_vwrite_ne (by omega) (by omega), Memory.read_vwrite_ne (by omega) (by omega)]

/-! ### Canonical memories with equal reads are equal -/

/-- An address outside VRAM reads as unlisted. -/
theorem Memory.read_of_wf_outside {lo a : Nat} {m : Memory} (h : Memory.wfFrom lo m = true) (ha : vramBytes ≤ a) :
    m.read a = unlistedByte := by
  induction m generalizing lo with
  | nil => rfl
  | cons c m ih =>
    obtain ⟨b, w⟩ := c
    rw [Memory.wfFrom_cons] at h
    rw [Memory.read_cons, if_neg (by omega)]
    exact ih h.2.2.2

theorem Memory.eq_of_read_eq {lo : Nat} {m n : Memory} (hm : Memory.wfFrom lo m = true)
    (hn : Memory.wfFrom lo n = true) (h : ∀ a, m.read a = n.read a) : m = n := by
  induction m generalizing lo n with
  | nil =>
    cases n with
    | nil => rfl
    | cons c n =>
      obtain ⟨b, w⟩ := c
      have hb := h b
      rw [Memory.read_nil, Memory.read_cons, if_pos rfl] at hb
      rw [Memory.wfFrom_cons] at hn
      exact absurd hb.symm hn.2.2.1
  | cons c m ih =>
    obtain ⟨b, w⟩ := c
    have hm' := Memory.wfFrom_cons.mp hm
    cases n with
    | nil =>
      have hb := h b
      rw [Memory.read_nil, Memory.read_cons, if_pos rfl] at hb
      exact absurd hb hm'.2.2.1
    | cons d n =>
      obtain ⟨k, u⟩ := d
      have hn' := Memory.wfFrom_cons.mp hn
      rcases Nat.lt_trichotomy b k with hlt | heq | hgt
      · have hb := h b
        rw [Memory.read_cons, if_pos rfl, Memory.read_cons, if_neg (by omega),
          Memory.read_of_wfFrom hn'.2.2.2 (by omega)] at hb
        exact absurd hb hm'.2.2.1
      · subst k
        have hb := h b
        rw [Memory.read_cons, if_pos rfl, Memory.read_cons, if_pos rfl] at hb
        subst u
        congr 1
        refine ih hm'.2.2.2 hn'.2.2.2 fun a => ?_
        rcases Nat.lt_or_ge a (b + 1) with ha | ha
        · rw [Memory.read_of_wfFrom hm'.2.2.2 ha, Memory.read_of_wfFrom hn'.2.2.2 ha]
        · have := h a
          rwa [Memory.read_cons, if_neg (by omega), Memory.read_cons, if_neg (by omega)] at this
      · have hb := h k
        rw [Memory.read_cons, if_neg (by omega), Memory.read_cons, if_pos rfl,
          Memory.read_of_wfFrom hm'.2.2.2 (by omega)] at hb
        exact absurd hb.symm hn'.2.2.1

/-- Reset memory is canonical. -/
theorem State.reset_mem_wf : State.reset.mem.wf = true := rfl

end Sys2Proof.Machine
end

