-- ==== Sys2Proof/Laws/State.lean ====
section
/-!
SUPPORT. Each field of the state after each update of it, one lemma per field per update.
-/

namespace Sys2Proof.Machine

variable (s : State)

/-! ### `State.withMem` -/

@[simp] theorem State.withMem_mem (m : Memory) : (s.withMem m).mem = m := rfl

@[simp] theorem State.withMem_da (m : Memory) : (s.withMem m).da = s.da := rfl

@[simp] theorem State.withMem_params (m : Memory) : (s.withMem m).params = s.params := rfl

@[simp] theorem State.withMem_cl (m : Memory) : (s.withMem m).cl = s.cl := rfl

@[simp] theorem State.withMem_seq (m : Memory) : (s.withMem m).seq = s.seq := rfl

@[simp] theorem State.withMem_fault (m : Memory) : (s.withMem m).fault = s.fault := rfl

@[simp] theorem State.withMem_refused (m : Memory) : (s.withMem m).refused = s.refused := rfl

@[simp] theorem State.withMem_host (m : Memory) : (s.withMem m).host = s.host := rfl

@[simp] theorem State.withMem_recordIndex (m : Memory) : (s.withMem m).recordIndex = s.recordIndex := rfl

/-! ### `State.writeArea` -/

@[simp] theorem State.writeArea_mem (l t r b : BitVec 16) : (s.writeArea l t r b).mem = s.mem := rfl

@[simp] theorem State.writeArea_da (l t r b : BitVec 16) : (s.writeArea l t r b).da = ⟨l, t, r, b, true⟩ := rfl

@[simp] theorem State.writeArea_params (l t r b : BitVec 16) : (s.writeArea l t r b).params = s.params := rfl

@[simp] theorem State.writeArea_cl (l t r b : BitVec 16) : (s.writeArea l t r b).cl = s.cl := rfl

@[simp] theorem State.writeArea_seq (l t r b : BitVec 16) : (s.writeArea l t r b).seq = s.seq := rfl

@[simp] theorem State.writeArea_fault (l t r b : BitVec 16) : (s.writeArea l t r b).fault = s.fault := rfl

@[simp] theorem State.writeArea_refused (l t r b : BitVec 16) : (s.writeArea l t r b).refused = s.refused := rfl

@[simp] theorem State.writeArea_host (l t r b : BitVec 16) : (s.writeArea l t r b).host = s.host := rfl

@[simp] theorem State.writeArea_recordIndex (l t r b : BitVec 16) : (s.writeArea l t r b).recordIndex = s.recordIndex := rfl

/-! ### `State.latch` -/

@[simp] theorem State.latch_mem (i : Instr) : (s.latch i).mem = s.mem := rfl

@[simp] theorem State.latch_da (i : Instr) : (s.latch i).da = s.da := rfl

@[simp] theorem State.latch_params (i : Instr) : (s.latch i).params = s.params := rfl

@[simp] theorem State.latch_cl (i : Instr) : (s.latch i).cl = some i := rfl

@[simp] theorem State.latch_seq (i : Instr) : (s.latch i).seq = .busy .start := rfl

@[simp] theorem State.latch_fault (i : Instr) : (s.latch i).fault = s.fault := rfl

@[simp] theorem State.latch_refused (i : Instr) : (s.latch i).refused = s.refused := rfl

@[simp] theorem State.latch_host (i : Instr) : (s.latch i).host = s.host := rfl

@[simp] theorem State.latch_recordIndex (i : Instr) : (s.latch i).recordIndex = s.recordIndex := rfl

/-! ### `State.atPos` -/

@[simp] theorem State.atPos_mem (p : SeqPos) : (s.atPos p).mem = s.mem := rfl

@[simp] theorem State.atPos_da (p : SeqPos) : (s.atPos p).da = s.da := rfl

@[simp] theorem State.atPos_params (p : SeqPos) : (s.atPos p).params = s.params := rfl

@[simp] theorem State.atPos_cl (p : SeqPos) : (s.atPos p).cl = s.cl := rfl

@[simp] theorem State.atPos_seq (p : SeqPos) : (s.atPos p).seq = .busy p := rfl

@[simp] theorem State.atPos_fault (p : SeqPos) : (s.atPos p).fault = s.fault := rfl

@[simp] theorem State.atPos_refused (p : SeqPos) : (s.atPos p).refused = s.refused := rfl

@[simp] theorem State.atPos_host (p : SeqPos) : (s.atPos p).host = s.host := rfl

@[simp] theorem State.atPos_recordIndex (p : SeqPos) : (s.atPos p).recordIndex = s.recordIndex := rfl

/-! ### `State.takeFault` -/

@[simp] theorem State.takeFault_mem (k : Kind) (x y : Int) : (s.takeFault k x y).mem = s.mem := rfl

@[simp] theorem State.takeFault_da (k : Kind) (x y : Int) : (s.takeFault k x y).da = s.da := rfl

@[simp] theorem State.takeFault_params (k : Kind) (x y : Int) : (s.takeFault k x y).params = s.params := rfl

@[simp] theorem State.takeFault_cl (k : Kind) (x y : Int) : (s.takeFault k x y).cl = none := rfl

@[simp] theorem State.takeFault_seq (k : Kind) (x y : Int) : (s.takeFault k x y).seq = .halted := rfl

@[simp] theorem State.takeFault_fault (k : Kind) (x y : Int) : (s.takeFault k x y).fault = some ⟨.outOfVram, x, y, k⟩ := rfl

@[simp] theorem State.takeFault_refused (k : Kind) (x y : Int) : (s.takeFault k x y).refused = s.refused := rfl

@[simp] theorem State.takeFault_host (k : Kind) (x y : Int) : (s.takeFault k x y).host = s.host := rfl

@[simp] theorem State.takeFault_recordIndex (k : Kind) (x y : Int) : (s.takeFault k x y).recordIndex = s.recordIndex := rfl

/-! ### `State.refuse` -/

@[simp] theorem State.refuse_mem (r : RefReason) : (s.refuse r).mem = s.mem := rfl

@[simp] theorem State.refuse_da (r : RefReason) : (s.refuse r).da = s.da := rfl

@[simp] theorem State.refuse_params (r : RefReason) : (s.refuse r).params = s.params := rfl

@[simp] theorem State.refuse_cl (r : RefReason) : (s.refuse r).cl = none := rfl

@[simp] theorem State.refuse_seq (r : RefReason) : (s.refuse r).seq = .halted := rfl

@[simp] theorem State.refuse_fault (r : RefReason) : (s.refuse r).fault = s.fault := rfl

@[simp] theorem State.refuse_refused (r : RefReason) : (s.refuse r).refused = some ⟨r, s.recordIndex⟩ := rfl

@[simp] theorem State.refuse_host (r : RefReason) : (s.refuse r).host = s.host := rfl

@[simp] theorem State.refuse_recordIndex (r : RefReason) : (s.refuse r).recordIndex = s.recordIndex := rfl

/-! ### `State.hostReset` -/

@[simp] theorem State.hostReset_mem : s.hostReset.mem = s.mem := rfl

@[simp] theorem State.hostReset_da : s.hostReset.da = DrawArea.reset := rfl

@[simp] theorem State.hostReset_params : s.hostReset.params = s.params := rfl

@[simp] theorem State.hostReset_cl : s.hostReset.cl = none := rfl

@[simp] theorem State.hostReset_seq : s.hostReset.seq = .idle := rfl

@[simp] theorem State.hostReset_fault : s.hostReset.fault = none := rfl

@[simp] theorem State.hostReset_refused : s.hostReset.refused = none := rfl

@[simp] theorem State.hostReset_host : s.hostReset.host = s.host := rfl

@[simp] theorem State.hostReset_recordIndex : s.hostReset.recordIndex = s.recordIndex := rfl

/-! ### `State.withHost` -/

@[simp] theorem State.withHost_mem (h : List HostAction) : (s.withHost h).mem = s.mem := rfl

@[simp] theorem State.withHost_da (h : List HostAction) : (s.withHost h).da = s.da := rfl

@[simp] theorem State.withHost_params (h : List HostAction) : (s.withHost h).params = s.params := rfl

@[simp] theorem State.withHost_cl (h : List HostAction) : (s.withHost h).cl = s.cl := rfl

@[simp] theorem State.withHost_seq (h : List HostAction) : (s.withHost h).seq = s.seq := rfl

@[simp] theorem State.withHost_fault (h : List HostAction) : (s.withHost h).fault = s.fault := rfl

@[simp] theorem State.withHost_refused (h : List HostAction) : (s.withHost h).refused = s.refused := rfl

@[simp] theorem State.withHost_host (h : List HostAction) : (s.withHost h).host = h := rfl

@[simp] theorem State.withHost_recordIndex (h : List HostAction) : (s.withHost h).recordIndex = s.recordIndex := rfl

/-! ### `State.advance` -/

@[simp] theorem State.advance_mem : s.advance.mem = s.mem := rfl

@[simp] theorem State.advance_da : s.advance.da = s.da := rfl

@[simp] theorem State.advance_params : s.advance.params = s.params := rfl

@[simp] theorem State.advance_cl : s.advance.cl = s.cl := rfl

@[simp] theorem State.advance_seq : s.advance.seq = s.seq := rfl

@[simp] theorem State.advance_fault : s.advance.fault = s.fault := rfl

@[simp] theorem State.advance_refused : s.advance.refused = s.refused := rfl

@[simp] theorem State.advance_host : s.advance.host = s.host := rfl

@[simp] theorem State.advance_recordIndex : s.advance.recordIndex = s.recordIndex + 1 := rfl

/-! ### `State.hostWrite` -/

@[simp] theorem State.hostWrite_mem (x : BitVec 10) (y : BitVec 9) (v : Pixel) : (s.hostWrite x y v).mem = s.mem.vwrite x.toNat y.toNat v := rfl

@[simp] theorem State.hostWrite_da (x : BitVec 10) (y : BitVec 9) (v : Pixel) : (s.hostWrite x y v).da = s.da := rfl

@[simp] theorem State.hostWrite_params (x : BitVec 10) (y : BitVec 9) (v : Pixel) : (s.hostWrite x y v).params = s.params := rfl

@[simp] theorem State.hostWrite_cl (x : BitVec 10) (y : BitVec 9) (v : Pixel) : (s.hostWrite x y v).cl = s.cl := rfl

@[simp] theorem State.hostWrite_seq (x : BitVec 10) (y : BitVec 9) (v : Pixel) : (s.hostWrite x y v).seq = s.seq := rfl

@[simp] theorem State.hostWrite_fault (x : BitVec 10) (y : BitVec 9) (v : Pixel) : (s.hostWrite x y v).fault = s.fault := rfl

@[simp] theorem State.hostWrite_refused (x : BitVec 10) (y : BitVec 9) (v : Pixel) : (s.hostWrite x y v).refused = s.refused := rfl

@[simp] theorem State.hostWrite_host (x : BitVec 10) (y : BitVec 9) (v : Pixel) : (s.hostWrite x y v).host = s.host := rfl

@[simp] theorem State.hostWrite_recordIndex (x : BitVec 10) (y : BitVec 9) (v : Pixel) : (s.hostWrite x y v).recordIndex = s.recordIndex := rfl

/-! ### `State.readyToSubmit` -/

@[simp] theorem State.readyToSubmit_mem (ws : List Word) : (s.readyToSubmit ws).mem = s.mem := rfl

@[simp] theorem State.readyToSubmit_da (ws : List Word) : (s.readyToSubmit ws).da = { s.da with set := true } := rfl

@[simp] theorem State.readyToSubmit_params (ws : List Word) : (s.readyToSubmit ws).params = s.params := rfl

@[simp] theorem State.readyToSubmit_cl (ws : List Word) : (s.readyToSubmit ws).cl = s.cl := rfl

@[simp] theorem State.readyToSubmit_seq (ws : List Word) : (s.readyToSubmit ws).seq = .idle := rfl

@[simp] theorem State.readyToSubmit_fault (ws : List Word) : (s.readyToSubmit ws).fault = s.fault := rfl

@[simp] theorem State.readyToSubmit_refused (ws : List Word) : (s.readyToSubmit ws).refused = s.refused := rfl

@[simp] theorem State.readyToSubmit_host (ws : List Word) : (s.readyToSubmit ws).host = [.submit ws] := rfl

@[simp] theorem State.readyToSubmit_recordIndex (ws : List Word) : (s.readyToSubmit ws).recordIndex = s.recordIndex := rfl

/-! ### `State.finish`: a halted state stays, any other becomes idle with the latch empty -/

theorem State.finish_of_halted (h : s.seq = .halted) : s.finish = s := by
  unfold State.finish; rw [h]

theorem State.finish_of_not_halted (h : s.seq ≠ .halted) : s.finish = { s with cl := none, seq := .idle } := by
  unfold State.finish; split <;> simp_all

@[simp] theorem State.finish_mem : s.finish.mem = s.mem := by
  unfold State.finish; split <;> rfl

@[simp] theorem State.finish_da : s.finish.da = s.da := by
  unfold State.finish; split <;> rfl

@[simp] theorem State.finish_params : s.finish.params = s.params := by
  unfold State.finish; split <;> rfl

@[simp] theorem State.finish_fault : s.finish.fault = s.fault := by
  unfold State.finish; split <;> rfl

@[simp] theorem State.finish_refused : s.finish.refused = s.refused := by
  unfold State.finish; split <;> rfl

@[simp] theorem State.finish_host : s.finish.host = s.host := by
  unfold State.finish; split <;> rfl

@[simp] theorem State.finish_recordIndex : s.finish.recordIndex = s.recordIndex := by
  unfold State.finish; split <;> rfl

theorem State.finish_seq : s.finish.seq = if s.seq = .halted then .halted else .idle := by
  unfold State.finish; split <;> simp_all

@[simp] theorem State.finish_cl_of_none (h : s.cl = none) : s.finish.cl = none := by
  unfold State.finish; split <;> simp_all

/-! ### VRAM of a state -/

@[simp] theorem State.vram_eq (x y : Nat) : s.vram x y = s.mem.vread x y := rfl

@[simp] theorem State.hostByte_eq (a : Nat) : s.hostByte a = s.mem.read a := rfl

end Sys2Proof.Machine
end

