-- ==== Sys2Proof/Laws/Draw.lean ====
section
/-!
SUPPORT. What the shared operations of a draw can do: the shader at one pixel, the loop over the pixels, and the frame
of a draw command.
-/

namespace Sys2Proof.Machine

open Sys2Proof.Config

/-- A coordinate in VRAM, as natural numbers. -/
theorem inVram_iff {x y : Int} :
    inVram x y = true ↔ 0 ≤ x ∧ x < 1024 ∧ 0 ≤ y ∧ y < 512 := by
  simp only [inVram, Bool.and_eq_true, decide_eq_true_eq, vramWidth, vramHeight, Nat.cast_ofNat]
  tauto

theorem toNat_lt_of_inVram {x y : Int} (h : inVram x y = true) : x.toNat < vramWidth ∧ y.toNat < vramHeight := by
  rw [inVram_iff] at h
  simp only [vramWidth, vramHeight]
  omega

/-! ### The shader at one pixel -/

/-- The shader writes at most one word, and only that of its pixel (40_pixel_shader.md R140). -/
theorem shadeMem_cases (sh : Shader) (m : Memory) (f : Frag) :
    (pixelWord sh m f = none ∧ shadeMem sh m f = m)
      ∨ ∃ w, pixelWord sh m f = some w ∧ shadeMem sh m f = m.vwrite f.x.toNat f.y.toNat w := by
  unfold shadeMem
  cases h : pixelWord sh m f with
  | none => exact .inl ⟨rfl, rfl⟩
  | some w => exact .inr ⟨w, rfl, rfl⟩

theorem shadeMem_wf {sh : Shader} {m : Memory} {f : Frag} (h : m.wf = true) (hf : inVram f.x f.y = true) :
    (shadeMem sh m f).wf = true := by
  have hb := toNat_lt_of_inVram hf
  rcases shadeMem_cases sh m f with ⟨-, he⟩ | ⟨w, -, he⟩ <;> rw [he]
  · exact h
  · exact Memory.wf_vwrite h hb.1 hb.2

/-- A byte of another word is as it was. -/
theorem shadeMem_read_ne {sh : Shader} {m : Memory} {f : Frag} {a : Nat} (h0 : a ≠ vramAddr f.x.toNat f.y.toNat)
    (h1 : a ≠ vramAddr f.x.toNat f.y.toNat + 1) : (shadeMem sh m f).read a = m.read a := by
  rcases shadeMem_cases sh m f with ⟨-, he⟩ | ⟨w, -, he⟩ <;> rw [he]
  exact Memory.read_vwrite_ne h0 h1

/-- Another word is as it was. -/
theorem shadeMem_vread_ne {sh : Shader} {m : Memory} {f : Frag} {x y : Nat} (hf : inVram f.x f.y = true)
    (hx : x < vramWidth) (h : ¬(f.x = (x : Int) ∧ f.y = (y : Int))) :
    (shadeMem sh m f).vread x y = m.vread x y := by
  have hb := toNat_lt_of_inVram hf
  rw [inVram_iff] at hf
  rcases shadeMem_cases sh m f with ⟨-, he⟩ | ⟨w, -, he⟩ <;> rw [he]
  refine Memory.vread_vwrite_ne hb.1 hx fun hc => h ?_
  omega

/-- The shader's own word. -/
theorem shadeMem_vread_same {sh : Shader} {m : Memory} {f : Frag} (h : m.wf = true) (hf : inVram f.x f.y = true) :
    (shadeMem sh m f).vread f.x.toNat f.y.toNat = (pixelWord sh m f).getD (m.vread f.x.toNat f.y.toNat) := by
  have hb := toNat_lt_of_inVram hf
  rcases shadeMem_cases sh m f with ⟨hp, he⟩ | ⟨w, hp, he⟩ <;> rw [he, hp]
  · rfl
  · exact Memory.vread_vwrite_same h hb.1 hb.2

/-! ### The loop over the pixels -/

/-- VRAM after a list of pixels, all inside VRAM. -/
def shadeAll (sh : Shader) (m : Memory) (fs : List Frag) : Memory := fs.foldl (shadeMem sh) m

@[simp] theorem shadeAll_nil (sh : Shader) (m : Memory) : shadeAll sh m [] = m := rfl

@[simp] theorem shadeAll_cons (sh : Shader) (m : Memory) (f : Frag) (fs : List Frag) :
    shadeAll sh m (f :: fs) = shadeAll sh (shadeMem sh m f) fs := rfl

theorem shadeAll_append (sh : Shader) (m : Memory) (fs gs : List Frag) :
    shadeAll sh m (fs ++ gs) = shadeAll sh (shadeAll sh m fs) gs := List.foldl_append ..

theorem shadeAll_wf {sh : Shader} {m : Memory} {fs : List Frag} (h : m.wf = true)
    (hf : ∀ f ∈ fs, inVram f.x f.y = true) : (shadeAll sh m fs).wf = true := by
  induction fs generalizing m with
  | nil => exact h
  | cons f fs ih =>
    rw [List.forall_mem_cons] at hf
    exact ih (shadeMem_wf h hf.1) hf.2

/-- A byte that no pixel's word holds is as it was. -/
theorem shadeAll_read_ne {sh : Shader} {m : Memory} {fs : List Frag} {a : Nat}
    (h : ∀ f ∈ fs, a ≠ vramAddr f.x.toNat f.y.toNat ∧ a ≠ vramAddr f.x.toNat f.y.toNat + 1) :
    (shadeAll sh m fs).read a = m.read a := by
  induction fs generalizing m with
  | nil => rfl
  | cons f fs ih =>
    rw [List.forall_mem_cons] at h
    rw [shadeAll_cons, ih h.2, shadeMem_read_ne h.1.1 h.1.2]

/-- A word that no pixel names is as it was. -/
theorem shadeAll_vread_ne {sh : Shader} {m : Memory} {fs : List Frag} {x y : Nat} (hx : x < vramWidth)
    (hf : ∀ f ∈ fs, inVram f.x f.y = true) (h : ∀ f ∈ fs, ¬(f.x = (x : Int) ∧ f.y = (y : Int))) :
    (shadeAll sh m fs).vread x y = m.vread x y := by
  induction fs generalizing m with
  | nil => rfl
  | cons f fs ih =>
    rw [List.forall_mem_cons] at h hf
    rw [shadeAll_cons, ih hf.2 h.2, shadeMem_vread_ne hf.1 hx h.1]

/-- Either every pixel of a list lies in VRAM, or there is a first one that does not. -/
theorem allInside_or_first_outside (fs : List Frag) :
    (∀ f ∈ fs, inVram f.x f.y = true)
      ∨ ∃ pre g post, fs = pre ++ g :: post ∧ (∀ f ∈ pre, inVram f.x f.y = true) ∧ inVram g.x g.y = false := by
  induction fs with
  | nil => exact .inl fun f hf => absurd hf (by simp)
  | cons f fs ih =>
    cases hf : inVram f.x f.y with
    | false => exact .inr ⟨[], f, fs, rfl, by simp, hf⟩
    | true =>
      rcases ih with h | ⟨pre, g, post, he, hp, hg⟩
      · exact .inl (List.forall_mem_cons.mpr ⟨hf, h⟩)
      · exact .inr ⟨f :: pre, g, post, by rw [he]; rfl, List.forall_mem_cons.mpr ⟨hf, hp⟩, hg⟩

/-- A list of pixels inside VRAM runs to its end: only VRAM and the sequencer change, and the engine does not halt. -/
theorem drawFrags_inside {k : Kind} {sh : Shader} {fs : List Frag} {s : State}
    (h : ∀ f ∈ fs, inVram f.x f.y = true) :
    ∃ q, drawFrags k sh fs s = { s with mem := shadeAll sh s.mem fs, seq := q } ∧ (s.seq ≠ .halted → q ≠ .halted) := by
  induction fs generalizing s with
  | nil => exact ⟨s.seq, rfl, id⟩
  | cons f fs ih =>
    rw [List.forall_mem_cons] at h
    obtain ⟨q, hq, hn⟩ := ih (s := (s.atPos f.pos).withMem (shadeMem sh s.mem f)) h.2
    refine ⟨q, ?_, fun _ => hn (by simp)⟩
    unfold drawFrags
    simp only [h.1, if_true, State.atPos_mem]
    rw [hq]
    rfl

/-- A list whose first pixel outside VRAM is `g`: the pixels before it are shaded, and `g` faults. -/
theorem drawFrags_outside {k : Kind} {sh : Shader} {pre post : List Frag} {g : Frag} {s : State}
    (h : ∀ f ∈ pre, inVram f.x f.y = true) (hg : inVram g.x g.y = false) :
    drawFrags k sh (pre ++ g :: post) s = (s.withMem (shadeAll sh s.mem pre)).takeFault k g.x g.y := by
  induction pre generalizing s with
  | nil =>
    simp only [List.nil_append]
    unfold drawFrags
    simp only [hg]
    rfl
  | cons f pre ih =>
    rw [List.forall_mem_cons] at h
    simp only [List.cons_append]
    unfold drawFrags
    simp only [h.1, if_true, State.atPos_mem]
    rw [ih h.2]
    rfl

/-! ### A draw command -/

theorem whenIdle_idle {s : State} {b : Host.Outcome State Fault Refusal} (h : s.seq = .idle) : whenIdle s b = b := by
  unfold whenIdle; rw [h]

theorem whenIdle_halted {s : State} {b : Host.Outcome State Fault Refusal} (h : s.seq = .halted) :
    whenIdle s b = .fault .halted := by
  unfold whenIdle; rw [h]

theorem whenIdle_busy {s : State} {b : Host.Outcome State Fault Refusal} {p : SeqPos} (h : s.seq = .busy p) :
    whenIdle s b = .fault .busy := by
  unfold whenIdle; rw [h]

/-- A command that answers a next state ran on an idle engine. -/
theorem idle_of_whenIdle_next {s t : State} {b : Host.Outcome State Fault Refusal} (h : whenIdle s b = .next t) :
    s.seq = .idle ∧ b = .next t := by
  unfold whenIdle at h
  split at h
  · rename_i hs; exact ⟨hs, h⟩
  · cases h
  · cases h

/-- A draw whose pixels all lie in VRAM completes: only VRAM changes, the latch is empty and the engine idle. -/
theorem execDraw_completes {i : Instr} {sh : Shader} {fs : List Frag} {s : State} (hs : s.seq = .idle)
    (hd : s.da.set = true) (hw : WellFormed i = true) (h : ∀ f ∈ fs, inVram f.x f.y = true) :
    execDraw i sh fs s = .next { s with mem := shadeAll sh s.mem fs, cl := none, seq := .idle } := by
  obtain ⟨q, hq, hn⟩ := drawFrags_inside (k := i.kind) (sh := sh) (s := s.latch i) h
  unfold execDraw
  rw [whenIdle_idle hs, hd, hw, hq, State.finish_of_not_halted _ (hn (by simp))]
  rfl

/-- A draw whose first pixel outside VRAM is `g` faults there. -/
theorem execDraw_faults {i : Instr} {sh : Shader} {pre post : List Frag} {g : Frag} {s : State} (hs : s.seq = .idle)
    (hd : s.da.set = true) (hw : WellFormed i = true) (h : ∀ f ∈ pre, inVram f.x f.y = true)
    (hg : inVram g.x g.y = false) :
    execDraw i sh (pre ++ g :: post) s =
      .next ((s.withMem (shadeAll sh s.mem pre)).takeFault i.kind g.x g.y) := by
  unfold execDraw
  rw [whenIdle_idle hs, hd, hw, drawFrags_outside h hg]
  rfl

/-- Everything a draw that answers a next state can have done: been refused for the unset area or the reserved mode,
completed, or faulted at its first pixel outside VRAM. -/
theorem execDraw_cases {i : Instr} {sh : Shader} {fs : List Frag} {s t : State} (h : execDraw i sh fs s = .next t) :
    s.seq = .idle ∧
      ((s.da.set = false ∧ t = s.refuse .daUnset)
        ∨ (s.da.set = true ∧ WellFormed i = false ∧ t = s.refuse .tmode)
        ∨ (s.da.set = true ∧ WellFormed i = true ∧ (∀ f ∈ fs, inVram f.x f.y = true)
            ∧ t = { s with mem := shadeAll sh s.mem fs, cl := none, seq := .idle })
        ∨ (s.da.set = true ∧ WellFormed i = true
            ∧ ∃ pre g post, fs = pre ++ g :: post ∧ (∀ f ∈ pre, inVram f.x f.y = true) ∧ inVram g.x g.y = false
              ∧ t = (s.withMem (shadeAll sh s.mem pre)).takeFault i.kind g.x g.y)) := by
  obtain ⟨hs, -⟩ := idle_of_whenIdle_next h
  refine ⟨hs, ?_⟩
  cases hd : s.da.set with
  | false =>
    unfold execDraw at h
    rw [whenIdle_idle hs, hd] at h
    exact .inl ⟨rfl, by cases h; rfl⟩
  | true =>
    cases hw : WellFormed i with
    | false =>
      unfold execDraw at h
      rw [whenIdle_idle hs, hd, hw] at h
      exact .inr (.inl ⟨rfl, rfl, by cases h; rfl⟩)
    | true =>
      rcases allInside_or_first_outside fs with ha | ⟨pre, g, post, rfl, hp, hg⟩
      · rw [execDraw_completes hs hd hw ha] at h
        exact .inr (.inr (.inl ⟨rfl, rfl, ha, by cases h; rfl⟩))
      · rw [execDraw_faults hs hd hw hp hg] at h
        exact .inr (.inr (.inr ⟨rfl, rfl, pre, g, post, rfl, hp, hg, by cases h; rfl⟩))

end Sys2Proof.Machine
end

