-- ==== Sys2Proof/Laws/Exec.lean ====
section
/-!
SUPPORT. What `exec` and `step` can do, each said once.
-/

namespace Sys2Proof.Machine

open Sys2Proof.Config

/-- Every draw is the shared draw operation over its shader and its pixels. -/
theorem exec_draw {i : Instr} {c : DrawCfg} (s : State) (h : configOf i = some c) :
    exec i s = execDraw i (shaderOf i s.params c) (fragsOf s.params s.da i) s := by
  cases i <;> cases h <;> rfl

/-- A command is a draw or a SETAREA. -/
theorem draw_or_setarea (i : Instr) : (∃ c, configOf i = some c) ∨ ∃ l t r b, i = .setarea l t r b := by
  cases i with
  | rect f c o sz col uv => exact .inl ⟨c, rfl⟩
  | line f c p0 p1 => exact .inl ⟨c, rfl⟩
  | tri f c v0 v1 v2 => exact .inl ⟨c, rfl⟩
  | quad f c v0 v1 v2 v3 => exact .inl ⟨c, rfl⟩
  | setarea l t r b => exact .inr ⟨l, t, r, b, rfl⟩

/-- A command on an engine that is not idle is stuck. -/
theorem exec_of_halted (i : Instr) {s : State} (h : s.seq = .halted) : exec i s = .fault .halted := by
  cases i <;> exact whenIdle_halted h

theorem exec_of_busy (i : Instr) {s : State} {p : SeqPos} (h : s.seq = .busy p) : exec i s = .fault .busy := by
  cases i <;> exact whenIdle_busy h

/-- Everything a command that answers a next state can have done: SETAREA's write, or one of the four ends of a draw. -/
theorem exec_next_cases {i : Instr} {s t : State} (h : exec i s = .next t) :
    s.seq = .idle ∧
      ((∃ l u r b, i = .setarea l u r b ∧ t = ((s.latch i).writeArea l u r b).finish)
        ∨ ∃ c, configOf i = some c ∧
          ((s.da.set = false ∧ t = s.refuse .daUnset)
            ∨ (s.da.set = true ∧ WellFormed i = false ∧ t = s.refuse .tmode)
            ∨ (s.da.set = true ∧ WellFormed i = true ∧ (∀ f ∈ fragsOf s.params s.da i, inVram f.x f.y = true)
                ∧ t = { s with mem := shadeAll (shaderOf i s.params c) s.mem (fragsOf s.params s.da i), cl := none,
                               seq := .idle })
            ∨ (s.da.set = true ∧ WellFormed i = true
                ∧ ∃ pre g post, fragsOf s.params s.da i = pre ++ g :: post ∧ (∀ f ∈ pre, inVram f.x f.y = true)
                  ∧ inVram g.x g.y = false
                  ∧ t = (s.withMem (shadeAll (shaderOf i s.params c) s.mem pre)).takeFault i.kind g.x g.y))) := by
  rcases draw_or_setarea i with ⟨c, hc⟩ | ⟨l, u, r, b, rfl⟩
  · rw [exec_draw s hc] at h
    obtain ⟨hs, hcases⟩ := execDraw_cases h
    exact ⟨hs, .inr ⟨c, hc, hcases⟩⟩
  · obtain ⟨hs, hn⟩ := idle_of_whenIdle_next h
    cases hn
    exact ⟨hs, .inl ⟨l, u, r, b, rfl, rfl⟩⟩

/-- Everything a step that answers a next state can have done. -/
theorem step_next_cases {s t : State} (h : step s = .next t) :
    ((s.seq = .idle ∨ s.seq = .halted) ∧ ∃ rest, s.host = .reset :: rest ∧ t = (s.withHost rest).hostReset)
      ∨ ((s.seq = .idle ∨ s.seq = .halted)
          ∧ ∃ x y v rest, s.host = .writeVram x y v :: rest ∧ t = (s.withHost rest).hostWrite x y v)
      ∨ (s.seq = .idle ∧ s.host = [] ∧ t = s)
      ∨ (s.seq = .idle ∧ ∃ ws rest, s.host = .submit ws :: rest ∧
          ((∃ r, decodeWith s.da.set ws = .error r ∧ t = ((s.withHost rest).refuse r).advance)
            ∨ ∃ i more u, decodeWith s.da.set ws = .ok (i, more) ∧ exec i (s.withHost (pending more rest)) = .next u
                ∧ t = u.advance)) := by
  unfold step hostStep at h
  split at h
  · cases h
  · rename_i rest hh _
    cases h
    refine .inl ⟨?_, rest, hh, rfl⟩
    cases hs : s.seq <;> simp_all
  · rename_i x y v rest hh _
    cases h
    refine .inr (.inl ⟨?_, x, y, v, rest, hh, rfl⟩)
    cases hs : s.seq <;> simp_all
  · rename_i ws rest hs hh
    refine .inr (.inr (.inr ⟨hs, ws, rest, hh, ?_⟩))
    unfold submitRecord at h
    split at h
    · rename_i r hr
      cases h
      exact .inl ⟨r, hr, rfl⟩
    · rename_i i more hi
      unfold advanceOutcome at h
      split at h
      · rename_i u hu
        cases h
        exact .inr ⟨i, more, u, hi, hu, rfl⟩
      · cases h
      · cases h
  · rename_i hs hh
    cases h
    exact .inr (.inr (.inl ⟨hs, hh, rfl⟩))
  · cases h

end Sys2Proof.Machine
end

