-- ==== Sys2Proof/Laws/PerInstr.lean ====
section
/-!
SUPPORT. Families of statements with one lemma per command.
-/

namespace Sys2Proof.Laws.EncodedLength

/-- A command's record has the length of its kind (30_encoding.md R102, R109). -/
def Statement (i : Instr) : Prop := (encode i).length = i.kind.length

theorem rect (f : RectFlags) (c : DrawCfg) (origin : XY) (size : Size) (color : Color) (uv : UV) :
    Statement (.rect f c origin size color uv) := rfl

theorem line (f : LineFlags) (c : DrawCfg) (p0 p1 : LineVertex) : Statement (.line f c p0 p1) := rfl

theorem tri (f : PolyFlags) (c : DrawCfg) (v0 v1 v2 : Vertex) : Statement (.tri f c v0 v1 v2) := rfl

theorem quad (f : PolyFlags) (c : DrawCfg) (v0 v1 v2 v3 : Vertex) : Statement (.quad f c v0 v1 v2 v3) := rfl

theorem setarea (left top right bottom : BitVec 16) : Statement (.setarea left top right bottom) := rfl

end Sys2Proof.Laws.EncodedLength
end

