-- ==== Sys2Proof/Laws/Pixels.lean ====
section
/-!
SUPPORT. What the shared pieces of the pixel lists can do: the shader's word, floors of shifts, the pixels of a span and
of a rectangle.
-/

namespace Sys2Proof.Machine

open Sys2Proof.Config

/-- Everything the shader's word can be: none for a zero texel, none for a masked word, or the blended colour with
`MASK_OR`. -/
theorem pixelWord_cases (sh : Shader) (m : Memory) (f : Frag) :
    (foreground sh m f = none ∧ pixelWord sh m f = none)
      ∨ ∃ fg, foreground sh m f = some fg ∧
        ((m.vread f.x.toNat f.y.toNat &&& sh.cfg.maskAnd ≠ 0 ∧ pixelWord sh m f = none)
          ∨ (m.vread f.x.toNat f.y.toNat &&& sh.cfg.maskAnd = 0
              ∧ pixelWord sh m f = some (blended sh fg (m.vread f.x.toNat f.y.toNat) ||| sh.cfg.maskOr))) := by
  unfold pixelWord
  cases hf : foreground sh m f with
  | none => exact .inl ⟨rfl, rfl⟩
  | some fg =>
    refine .inr ⟨fg, rfl, ?_⟩
    by_cases h : m.vread f.x.toNat f.y.toNat &&& sh.cfg.maskAnd = 0
    · exact .inr ⟨h, by simp [h]⟩
    · exact .inl ⟨h, if_pos h⟩

/-- An untextured foreground. -/
theorem foreground_untextured {sh : Shader} (h : sh.eff.tex = false) (m : Memory) (f : Frag) :
    foreground sh m f =
      some (flatColor (ditherLut sh.dither (ditherCoord sh.eff.dith f.x f.y).1 (ditherCoord sh.eff.dith f.x f.y).2)
        sh.eff.trans f.r f.g f.b) := by
  unfold foreground; simp [h]

/-- Bit 15 of a packed word. -/
@[simp] theorem maskBit_pack (r g b : BitVec 5) (m : Bool) : maskBit (pack r g b m) = m := by
  simp only [maskBit, pack, BitVec.getLsbD_append]
  simp

/-- Modulation keeps the texel's bit 15 (40_pixel_shader.md R147). -/
@[simp] theorem maskBit_modulate (lut : Nat → BitVec 5) (t : Pixel) (r g b : Byte) :
    maskBit (modulate lut t r g b) = maskBit t := maskBit_pack ..

/-- An untextured colour has bit 15 exactly under TRANS (40_pixel_shader.md R149). -/
@[simp] theorem maskBit_flatColor (lut : Nat → BitVec 5) (trans : Bool) (r g b : Byte) :
    maskBit (flatColor lut trans r g b) = trans := maskBit_pack ..

theorem le_asr_iff {z a : Int} {n : Nat} : z ≤ asr a n ↔ z * 2 ^ n ≤ a :=
  Int.le_ediv_iff_mul_le (by positivity)

theorem asr_lt_iff {z a : Int} {n : Nat} : asr a n < z ↔ a < z * 2 ^ n :=
  Int.ediv_lt_iff_lt_mul (by positivity)

theorem asr_mono {a b : Int} (n : Nat) (h : a ≤ b) : asr a n ≤ asr b n := by
  rw [le_asr_iff]
  exact le_trans (le_asr_iff.mp le_rfl) h

/-- The pixel at offset `k` of a span; the accumulators have advanced `k` times. -/
theorem mem_spanPixels_iff (p : Planes) (row : RowPos) (y : Int) (n : Nat) (x : Int) (a : Acc) (g : Frag) :
    g ∈ spanPixels p row y n x a ↔
      ∃ k, k < n ∧ g = { pos := .tri row.second row.half y (x + (k : Int)), x := x + (k : Int), y := y,
                         r := topByte ((fun b : Acc => b.advance p)^[k] a).r
                         g := topByte ((fun b : Acc => b.advance p)^[k] a).g
                         b := topByte ((fun b : Acc => b.advance p)^[k] a).b
                         u := topByte ((fun b : Acc => b.advance p)^[k] a).u
                         v := topByte ((fun b : Acc => b.advance p)^[k] a).v } := by
  induction n generalizing x a with
  | zero => simp [spanPixels]
  | succ n ih =>
    rw [spanPixels, List.mem_cons, ih]
    constructor
    · rintro (rfl | ⟨k, hk, rfl⟩)
      · exact ⟨0, by omega, by simp⟩
      · refine ⟨k + 1, by omega, ?_⟩
        simp only [Function.iterate_succ_apply, Nat.cast_add, Nat.cast_one, show x + 1 + (k : Int) = x + (k + 1) by ring]
    · rintro ⟨_ | k, hk, rfl⟩
      · exact .inl (by simp)
      · refine .inr ⟨k, by omega, ?_⟩
        simp only [Function.iterate_succ_apply, Nat.cast_add, Nat.cast_one, show x + 1 + (k : Int) = x + (k + 1) by ring]

/-- The pixels of a rectangle, by their offsets. -/
theorem mem_rectFrags_iff {da : DrawArea} {c : DrawCfg} {o : XY} {sz : Size} {col : Color} {uv : UV} {g : Frag} :
    g ∈ rectFrags da c o sz col uv ↔
      ∃ oy ox : Nat, oy < sz.h.toNat ∧ ox < sz.w.toNat ∧ da.hasRow (o.yInt + (oy : Int)) = true
        ∧ interlaced c (o.yInt + (oy : Int)) = false ∧ da.hasCol (o.xInt + (ox : Int)) = true
        ∧ g = { pos := .rect oy ox, x := o.xInt + (ox : Int), y := o.yInt + (oy : Int), r := col.r, g := col.g,
                b := col.b, u := wrap8 (byteInt uv.u + (ox : Int)), v := wrap8 (byteInt uv.v + (oy : Int)) } := by
  simp only [rectFrags, List.mem_flatMap, List.mem_range]
  constructor
  · rintro ⟨oy, hy, hg⟩
    unfold rectRow at hg
    simp only at hg
    split at hg
    · simp at hg
    · rename_i hrow
      simp only [Bool.or_eq_true, Bool.not_eq_true', not_or, Bool.not_eq_false, Bool.not_eq_true] at hrow
      simp only [List.mem_flatMap, List.mem_range] at hg
      obtain ⟨ox, hx, hg⟩ := hg
      split at hg
      · rename_i hcol
        exact ⟨oy, ox, hy, hx, hrow.1, hrow.2, hcol, by simpa using hg⟩
      · simp at hg
  · rintro ⟨oy, ox, hy, hx, hr, hi, hc, rfl⟩
    refine ⟨oy, hy, ?_⟩
    unfold rectRow
    simp only [hr, hi, Bool.not_true, Bool.or_self, Bool.false_eq_true, if_false, List.mem_flatMap, List.mem_range]
    exact ⟨ox, hx, by simp [hc]⟩

end Sys2Proof.Machine
end

