-- ==== Sys2Proof/Laws/Run.lean ====
section
/-!
SUPPORT. What the run of 70_reset_and_hazards.md R338 can do: how it unfolds, that more steps do not change where it ends,
and that it ends at one state at most.
-/

namespace Sys2Proof.Machine

@[simp] theorem submissions_nil : submissions [] = [] := rfl

@[simp] theorem submissions_submit (ws : List Word) (h : List HostAction) :
    submissions (.submit ws :: h) = ws :: submissions h := rfl

@[simp] theorem submissions_reset (h : List HostAction) : submissions (.reset :: h) = submissions h := rfl

@[simp] theorem submissions_writeVram (x : BitVec 10) (y : BitVec 9) (v : Pixel) (h : List HostAction) :
    submissions (.writeVram x y v :: h) = submissions h := rfl

/-- A state at which a run has ended is final or halted. -/
theorem ended_iff {s : State} : s.ended = true ↔ s.Final ∨ s.seq = .halted := by
  unfold State.ended State.Final
  cases s.seq <;> simp

theorem runEnd_of_ended (n : Nat) {s : State} (h : s.ended = true) : runEnd n s = some s := by
  cases n <;> simp [runEnd, h]

theorem runEnd_step (n : Nat) {s t : State} (h : s.ended = false) (hs : step s = .next t) :
    runEnd (n + 1) s = runEnd n t := by
  simp [runEnd, h, hs]

/-- A run that ends within `n + 1` steps has ended already, or takes a step. -/
theorem runEnd_succ_cases {n : Nat} {s t : State} (h : runEnd (n + 1) s = some t) :
    (s.ended = true ∧ t = s) ∨ (s.ended = false ∧ ∃ u, step s = .next u ∧ runEnd n u = some t) := by
  cases he : s.ended with
  | true => exact .inl ⟨rfl, by simpa [runEnd, he] using h.symm⟩
  | false =>
    simp only [runEnd, he, Bool.false_eq_true, if_false] at h
    split at h
    · rename_i u hu
      exact .inr ⟨rfl, u, hu, h⟩
    · cases h
    · cases h

/-- Where a run ends, it has ended. -/
theorem ended_of_runEnd {n : Nat} {s t : State} (h : runEnd n s = some t) : t.ended = true := by
  induction n generalizing s with
  | zero =>
    cases he : s.ended with
    | true =>
      rw [runEnd_of_ended 0 he] at h
      cases h
      exact he
    | false => simp [runEnd, he] at h
  | succ n ih =>
    rcases runEnd_succ_cases h with ⟨he, rfl⟩ | ⟨-, u, -, hu⟩
    · exact he
    · exact ih hu

/-- More steps do not change where a run ends. -/
theorem runEnd_mono {n m : Nat} {s t : State} (h : runEnd n s = some t) (hm : n ≤ m) : runEnd m s = some t := by
  induction n generalizing s m with
  | zero =>
    cases he : s.ended with
    | true => rwa [runEnd_of_ended m he, ← runEnd_of_ended 0 he]
    | false => simp [runEnd, he] at h
  | succ n ih =>
    obtain ⟨m, rfl⟩ := Nat.exists_eq_add_one.mpr (Nat.lt_of_lt_of_le (Nat.succ_pos n) hm)
    rcases runEnd_succ_cases h with ⟨he, rfl⟩ | ⟨he, u, hu, hr⟩
    · exact runEnd_of_ended _ he
    · rw [runEnd_step m he hu]
      exact ih hr (Nat.le_of_succ_le_succ hm)

/-- A run ends at one state at most. -/
theorem runEnd_unique {n m : Nat} {s t u : State} (h : runEnd n s = some t) (h' : runEnd m s = some u) : t = u := by
  have ht := runEnd_mono h (Nat.le_max_left n m)
  rw [runEnd_mono h' (Nat.le_max_right n m)] at ht
  exact (Option.some.inj ht).symm

end Sys2Proof.Machine
end

