-- ==== Sys2Proof/Tests/Slice0.lean ====
section
/-!
SUPPORT. The model's own tests: words and results taken from spec/95_test_vectors.md and spec/30_encoding.md R123, and
one witness for the hypotheses of each statement.
-/

namespace Sys2Proof.Tests

open Sys2Proof.Machine Sys2Proof.Config

/-! ### Helpers -/

/-- A state with the area of SA1, over some VRAM words. -/
def readyOver (ws : List (Nat × Nat × Pixel)) : State :=
  { State.reset with
    mem := ws.foldl (fun m w => m.vwrite w.1 w.2.1 w.2.2) []
    da := ⟨0, 0, 1023, 511, true⟩ }

/-- A state with the area of SA1 and VRAM all zero. -/
def readyState : State := readyOver []

/-- A state with the area of RE7, which reaches outside VRAM. -/
def wideState : State := { State.reset with da := ⟨0, 0, 2047, 511, true⟩ }

/-- The state after RE7's fault, without its pixels. -/
def faultedState : State := { wideState with seq := .halted, fault := some ⟨.outOfVram, 1024, 6, .rect⟩ }

/-- A state in the middle of a command. -/
def busyState : State := { readyState with seq := .busy .start }

/-- The state an outcome answers; the given state where it answers none. -/
def nextOf (s : State) : Host.Outcome State Fault Refusal → State
  | .next t => t
  | .fault _ => s
  | .refused _ => s

/-- The outcome is a next state. -/
def answers : Host.Outcome State Fault Refusal → Bool
  | .next _ => true
  | .fault _ => false
  | .refused _ => false

theorem eq_next_of_answers {s : State} {o : Host.Outcome State Fault Refusal} (h : answers o = true) :
    o = .next (nextOf s o) := by
  cases o <;> first | rfl | cases h

/-- The VRAM words of a state. -/
def wordsOf (s : State) (ps : List (Nat × Nat)) : List Pixel := ps.map fun p => s.vram p.1 p.2

/-- The state after the words are handed over. -/
def after (s : State) (ws : List Word) : State := nextOf s (step { s with host := [.submit ws] })

def red : Color := ⟨255, 0, 0⟩

def zeroUV : UV := ⟨0, 0⟩

/-- The reason of a refusal, none for a record that decodes. -/
def refusalOf (daSet : Bool) (ws : List Word) : Option RefReason :=
  match decodeWith daSet ws with
  | .error r => some r
  | .ok _ => none

/-- L1-S1. -/
def rectWords : List Word :=
  [0x00000000, 0x00000000, 0x00000000, 0x00000000, 0x0000FFFF, 0x0014000A, 0x00020002, 0x000000FF, 0x00000000]

/-- LI1. -/
def lineWords : List Word :=
  [0x00000001, 0x00000000, 0x00000000, 0x00000000, 0x0000FFFF, 0x00000000, 0x000000FF, 0x00010003, 0x000000FF]

/-- TR3. -/
def triWords : List Word :=
  [0x00000002, 0x00000000, 0x00000000, 0x00000000, 0x0000FFFF, 0x00000000, 0x000000FF, 0x00000000, 0x00000001,
   0x000000FF, 0x00000000, 0x00010000, 0x000000FF, 0x00000000]

/-- QU3. -/
def quadWords : List Word :=
  [0x00000083, 0x00000000, 0x00000000, 0x00000000, 0x0000FFFF, 0x00000000, 0x00636363, 0x00000000, 0x00000004,
   0x00636363, 0x00000000, 0x00040000, 0x00636363, 0x00000000, 0x00040004, 0x00636363, 0x00000000]

/-- SA1. -/
def areaWords : List Word := [0x00000004, 0x00000000, 0x01FF03FF]

def rectInstr : Instr := .rect ⟨false, false⟩ asmInit ⟨10, 20⟩ ⟨2, 2⟩ red zeroUV

def lineInstr : Instr := .line ⟨false, false⟩ asmInit ⟨⟨0, 0⟩, red⟩ ⟨⟨3, 1⟩, red⟩

def vert (x y : BitVec 11) (c : Color) : Vertex := ⟨⟨x, y⟩, c, zeroUV⟩

def triInstr : Instr := .tri ⟨false, false, false, false⟩ asmInit (vert 0 0 red) (vert 1 0 red) (vert 0 1 red)

def grey : Color := ⟨99, 99, 99⟩

def quadInstr : Instr :=
  .quad ⟨false, false, false, true⟩ asmInit (vert 0 0 grey) (vert 4 0 grey) (vert 0 4 grey) (vert 4 4 grey)

/-- The directive state with a reserved texture mode. -/
def reservedMode : DrawCfg := { asmInit with tmode := .reserved }

/-! ### WellFormed refuses an ill-formed term for each of its checks -/

theorem test_rect_reserved_mode_ill_formed :
    WellFormed (.rect ⟨true, false⟩ reservedMode ⟨0, 0⟩ ⟨1, 1⟩ red zeroUV) = false := by decide

theorem test_tri_reserved_mode_ill_formed :
    WellFormed (.tri ⟨false, true, false, false⟩ reservedMode (vert 0 0 red) (vert 1 0 red) (vert 0 1 red)) = false := by
  decide

theorem test_quad_reserved_mode_ill_formed :
    WellFormed (.quad ⟨false, true, false, false⟩ reservedMode (vert 0 0 red) (vert 1 0 red) (vert 0 1 red)
      (vert 1 1 red)) = false := by decide

theorem test_reserved_mode_without_texture_well_formed :
    WellFormed (.rect ⟨false, false⟩ reservedMode ⟨0, 0⟩ ⟨1, 1⟩ red zeroUV) = true := by decide

/-! ### Decoding words written out from the spec -/

theorem test_decode_rect : decode rectWords = .ok (rectInstr, []) := by decide

theorem test_decode_line : decode lineWords = .ok (lineInstr, []) := by decide

theorem test_decode_tri : decode triWords = .ok (triInstr, []) := by decide

theorem test_decode_quad : decode quadWords = .ok (quadInstr, []) := by decide

theorem test_decode_setarea : decode areaWords = .ok (.setarea 0 0 1023 511, []) := by decide

/-- Every field of a RECT at a value of its own, from 30_encoding.md R101, R103 to R107. -/
theorem test_decode_rect_fields :
    decode [0x00003770, 0x80014002, 0x01230321, 0x00AB03FE, 0x04030201, 0x07FF0400, 0x01FE03FD, 0x00332211, 0x00005544] =
      .ok (.rect ⟨true, true⟩ ⟨true, true, true, .palette8, .quarterAdd, 0x4002, 0x8001, 0x321, 0x123, 0x3FE, 0xAB, 1, 2,
        3, 4⟩ ⟨-1024, -1⟩ ⟨0x3FD, 0x1FE⟩ ⟨0x11, 0x22, 0x33⟩ ⟨0x44, 0x55⟩, []) := by decide

/-- SA3: negative bounds. -/
theorem test_decode_setarea_signed :
    (match decode [0x00000004, 0xFFFBFFFB, 0x03FF07FF] with
      | .ok (.setarea l t r b, _) => (l.toInt, t.toInt, r.toInt, b.toInt)
      | _ => (0, 0, 0, 0)) = (-5, -5, 2047, 1023) := by decide

/-- The refusals of L2-RF. -/
theorem test_refusals :
    [refusalOf true (0x00004000 :: rectWords.tail), refusalOf true (0x00100005 :: rectWords.tail),
      refusalOf true (0x00000005 :: rectWords.tail), refusalOf true (rectWords.take 8),
      refusalOf false [0x0000000C, 0x00000000, 0x01FF03FF], refusalOf false rectWords,
      refusalOf true (0x00000008 :: rectWords.tail), refusalOf true (0x00000011 :: lineWords.tail),
      refusalOf true (0x00000C10 :: rectWords.tail), refusalOf true (rectWords.set 2 0x00000400)] =
    [some .hdrRsv, some .hdrRsv, some .kind, some .len, some .setareaFlags, some .daUnset, some .flags, some .flags,
      some .tmode, some .fieldRsv] := by decide

/-- The opcode table's rows, as the host numbers their bits. -/
theorem test_decodeTableWord :
    (decodeTableWord 32 0).map Instr.kind = some .rect ∧ (decodeTableWord 32 1).map Instr.kind = some .line
      ∧ (decodeTableWord 32 2).map Instr.kind = some .tri ∧ (decodeTableWord 32 3).map Instr.kind = some .quad
      ∧ (decodeTableWord 32 4).map Instr.kind = some .setarea := by decide

/-- The record of a row is the instruction the next step runs. -/
theorem test_withFetchWord :
    (nextOf State.reset (step (State.reset.withFetchWord 32 4))).da = ⟨0, 0, 0, 0, true⟩
      ∧ ∀ w ∈ [0, 1, 2, 3], answers (step (State.reset.withFetchWord 32 w)) = true
          ∧ (nextOf State.reset (step (State.reset.withFetchWord 32 w))).refused = none := by decide

/-! ### One step on a small state -/

/-- L1-S1. -/
theorem test_rect_flat :
    wordsOf (after readyState rectWords) [(10, 20), (11, 20), (10, 21), (11, 21), (12, 20), (10, 22)] =
      [0x1F, 0x1F, 0x1F, 0x1F, 0, 0] := by decide

/-- L1-S3: a zero texel is discarded, and palette indices come least significant first. -/
theorem test_rect_palette4 :
    wordsOf (after (readyOver [(0, 0, 0x10), (1, 500, 0x7FFF)])
      [0x00000010, 0x00000000, 0x00000000, 0x01F40000, 0x0000FFFF, 0x00640064, 0x00010002, 0x00FFFFFF, 0x00000000])
      [(100, 100), (101, 100)] = [0, 0x7FFF] := by decide

/-- LI2: the endpoints swap, and the flat colour is the new start's. -/
theorem test_line_swap :
    wordsOf (after readyState
      [0x00000001, 0x00000000, 0x00000000, 0x00000000, 0x0000FFFF, 0x00010003, 0x000000FF, 0x00000000, 0x00FF0000])
      [(0, 0), (1, 0), (2, 1), (3, 1), (1, 1)] = [0x7C00, 0x7C00, 0x7C00, 0x7C00, 0] := by decide

/-- LI4: a vertical shaded line. -/
theorem test_line_shaded :
    wordsOf (after readyState
      [0x00000009, 0x00000000, 0x00000000, 0x00000000, 0x0000FFFF, 0x00000000, 0x00000000, 0x00030000, 0x000000FF])
      [(0, 0), (0, 1), (0, 2), (0, 3)] = [0, 0x0A, 0x15, 0x1F] := by decide

/-- TR9: the left edge and the excluded right edge. -/
theorem test_tri_coverage :
    wordsOf (after readyState
      [0x00000002, 0x00000000, 0x00000000, 0x00000000, 0x0000FFFF, 0x00000000, 0x000000FF, 0x00000000, 0x00040004,
       0x000000FF, 0x00000000, 0x00040000, 0x000000FF, 0x00000000])
      [(0, 0), (0, 1), (1, 1), (1, 2), (2, 3), (3, 3), (0, 4)] = [0, 0x1F, 0, 0x1F, 0x1F, 0, 0] := by decide

/-- TR2's setup. -/
theorem test_tri_setup :
    let s := sortedOf (vert 10 0 ⟨0, 0, 0⟩) (vert 0 5 red) (vert 6 10 ⟨0, 0, 255⟩)
    (s.core, s.baseStep, s.us, s.ls, s.rf, s.den) = (1, -1717986919, -8589934592, 5153960756, false, -80)
      ∧ ((s.planes true false).r.ddx, (s.planes true false).r.ddy, (s.planes true false).r.ig) =
        (0xE0200000, 0xF3400000, 0x3F400000) := by decide

/-- QU3: dithered, and no pixel left out. -/
theorem test_quad_dither :
    wordsOf (after readyState quadWords) [(0, 0), (2, 2), (1, 0), (3, 3), (0, 3), (3, 0), (4, 0), (0, 4)] =
      [0x2D6B, 0x2D6B, 0x318C, 0x318C, 0x318C, 0x318C, 0, 0] := by decide +kernel

/-- QU4: the order of the second triangle's vertices shows in one pixel. -/
theorem test_quad_order :
    let q : Instr := .quad ⟨true, false, false, false⟩ asmInit (vert 2 4 ⟨46, 0, 0⟩) (vert 3 0 ⟨165, 0, 0⟩)
      (vert 5 0 ⟨202, 0, 0⟩) (vert 3 3 ⟨89, 0, 0⟩)
    let other : State := { readyState with params := { defaultParams with quadOrder := .o213 } }
    ((nextOf readyState (exec q readyState)).vram 4 0, (nextOf other (exec q other)).vram 4 0) = (0x17, 0x16) := by
  decide +kernel

/-- SA1. -/
theorem test_setarea : (after State.reset areaWords).da = ⟨0, 0, 1023, 511, true⟩ := by decide

/-- RE7: the fault's mark, and the pixels before it. -/
theorem test_fault :
    let t := after wideState
      [0x00000000, 0x00000000, 0x00000000, 0x00000000, 0x0000FFFF, 0x000603FE, 0x00010003, 0x0000FF00, 0x00000000]
    (t.fault, t.seq, wordsOf t [(1022, 6), (1023, 6)]) =
      (some ⟨.outOfVram, 1024, 6, .rect⟩, .halted, [0x3E0, 0x3E0]) := by decide

/-- The codes of the marks (60_exceptions.md R303, R304). -/
theorem test_mark_codes :
    FaultCode.outOfVram.code = 1
      ∧ [RefReason.hdrRsv, .kind, .len, .setareaFlags, .daUnset, .flags, .tmode, .fieldRsv].map RefReason.code =
        [1, 2, 3, 4, 5, 6, 7, 8] := by decide

/-- SH3, SH5, SH9, SH13, and SH4's correction. -/
theorem test_blends :
    (blend .halfHalf 0x8421 0, blend .add 0x801F 0x10, blend .sub 0x801F 5, blend .quarterAdd 0x83E0 0,
      blend .halfHalf 0x8000 0x7FFF) = (0x8000, 0x801F, 0x8000, 0x80E0, 0xBDEF) := by decide

/-- The dither table of 95_test_vectors.md L2-SH. -/
theorem test_dither :
    [ditherLut defaultDitherMatrix 2 3 255, ditherLut defaultDitherMatrix 0 0 4, ditherLut defaultDitherMatrix 3 0 5,
      ditherLut defaultDitherMatrix 0 0 99, ditherLut defaultDitherMatrix 2 2 99, ditherLut defaultDitherMatrix 0 1 99] =
      [31, 0, 1, 11, 11, 12] := by decide

/-- L1-S1's record is what the assembler emits (30_encoding.md R123). -/
theorem test_assemble :
    assembleWords [.setarea 0 0 1023 511, .rect [] 10 20 2 2 255 0 0 none] = some (areaWords ++ rectWords) := by decide

/-! ### Witnesses: states and operands that meet the hypotheses of each statement -/

theorem inv_ready : readyState.Inv := by
  refine ⟨by decide, .inl rfl, rfl, ?_, .inl rfl, ?_⟩
  · simp [readyState, readyOver, State.reset, State.powerUp]
  · simp [readyState, readyOver, State.reset, State.powerUp]

theorem inv_faulted : faultedState.Inv := by
  refine ⟨by decide, .inr rfl, rfl, ?_, .inr rfl, ?_⟩
  · simp [faultedState]
  · intro m hm
    cases hm
    decide

theorem area_inVram {x y : Int} (hx : readyState.da.hasCol x = true) (hy : readyState.da.hasRow y = true) :
    inVram x y = true := by
  simp only [DrawArea.hasCol, DrawArea.hasRow, Bool.and_eq_true, decide_eq_true_eq] at hx hy
  have e : readyState.da.l = 0 ∧ readyState.da.r = 1023 ∧ readyState.da.t = 0 ∧ readyState.da.b = 511 := by decide
  rw [inVram_iff]
  omega

theorem rectCovers_inVram (c : DrawCfg) (o : XY) (sz : Size) (x y : Int)
    (h : rectCovers readyState.da c o sz x y = true) : inVram x y = true := by
  simp only [rectCovers, Bool.and_eq_true] at h
  exact area_inVram h.1.1.2 h.1.2

theorem triCovers_inVram (c : DrawCfg) (t : Sorted) (x y : Int) (h : triCovers readyState.da c t x y = true) :
    inVram x y = true := by
  simp only [triCovers, Bool.and_eq_true] at h
  exact area_inVram h.1.1.2 h.1.2

theorem test_witness_HostResetClearsAllButVram :
    (∃ (s : State) (rest : List HostAction), s.host = .reset :: rest ∧ s.seq = .idle)
      ∧ (∃ (s : State) (rest : List HostAction), s.host = .reset :: rest ∧ s.seq = .halted ∧ s.fault ≠ none)
      ∧ ∃ (s : State) (rest : List HostAction) (p : SeqPos), s.host = .reset :: rest ∧ s.seq = .busy p :=
  ⟨⟨{ readyState with host := [.reset] }, [], rfl, rfl⟩, ⟨{ faultedState with host := [.reset] }, [], rfl, rfl, by decide⟩,
    ⟨{ busyState with host := [.reset] }, [], .start, rfl, rfl⟩⟩

theorem test_witness_StepRunsTheDecodedCommand :
    (∃ (s : State) (ws more : List Word) (rest : List HostAction) (i : Instr),
      s.seq = .idle ∧ s.host = .submit ws :: rest ∧ decode ws = .ok (i, more) ∧ s.da.set = true ∧ more ≠ [])
    ∧ ∃ (s : State) (ws more : List Word) (rest : List HostAction) (i : Instr),
      s.seq = .idle ∧ s.host = .submit ws :: rest ∧ decode ws = .ok (i, more) ∧ s.da.set = false ∧ i.kind = .setarea :=
  ⟨⟨{ readyState with host := [.submit (rectWords ++ areaWords)] }, rectWords ++ areaWords, areaWords, [], rectInstr, rfl,
      rfl, by decide, rfl, by decide⟩,
    ⟨{ State.reset with host := [.submit areaWords] }, areaWords, [], [], .setarea 0 0 1023 511, rfl, rfl, by decide, rfl,
      rfl⟩⟩

theorem test_witness_RefusedRecordHaltsAndChangesNothingElse :
    ∃ (s : State) (ws : List Word) (rest : List HostAction) (r : RefReason),
      s.seq = .idle ∧ s.host = .submit ws :: rest ∧ decodeWith s.da.set ws = .error r :=
  ⟨{ State.reset with host := [.submit rectWords] }, rectWords, [], .daUnset, rfl, rfl, by decide⟩

theorem test_witness_HostWriteChangesOneWord :
    (∃ (s : State) (v : Pixel) (rest : List HostAction),
      s.mem.wf = true ∧ s.seq = .idle ∧ s.host = .writeVram 1023 511 v :: rest)
    ∧ ∃ (s : State) (v : Pixel) (rest : List HostAction),
      s.mem.wf = true ∧ s.seq = .halted ∧ s.host = .writeVram 0 0 v :: rest :=
  ⟨⟨{ readyState with host := [.writeVram 1023 511 0x8001] }, 0x8001, [], by decide, rfl, rfl⟩,
    ⟨{ faultedState with host := [.writeVram 0 0 0] }, 0, [], by decide, rfl, rfl⟩⟩

theorem test_witness_OnlyResetLeavesHaltedOrClearsAMark :
    ∃ s t : State, s.Inv ∧ step s = .next t ∧ (∀ rest, s.host ≠ .reset :: rest) ∧ s.seq = .halted ∧ s.fault ≠ none :=
  ⟨{ faultedState with host := [.writeVram 0 0 1] }, _, inv_faulted, rfl, by simp, rfl, by decide⟩

theorem test_witness_EngineNotIdleAcceptsNoCommand :
    (∃ s : State, s.seq = .halted ∧ s.host = [.submit rectWords]) ∧ (∃ s : State, s.seq = .halted ∧ s.host = [])
      ∧ ∃ (s : State) (p : SeqPos), s.seq = .busy p :=
  ⟨⟨{ faultedState with host := [.submit rectWords] }, rfl, rfl⟩, ⟨faultedState, rfl, rfl⟩, busyState, .start, rfl⟩

theorem test_witness_OnlySetareaWritesTheArea :
    (∃ i s t, exec i s = .next t ∧ i.kind ≠ .setarea) ∧ ∃ i s t, exec i s = .next t ∧ i.kind = .setarea :=
  ⟨⟨rectInstr, readyState, nextOf readyState (exec rectInstr readyState), eq_next_of_answers (by decide), by decide⟩,
    ⟨.setarea 0 0 (-1) (-1), readyState, _, rfl, rfl⟩⟩

theorem test_witness_PowerUpMeetsTheInvariant : ∃ m : Memory, m.wf = true ∧ m ≠ [] := ⟨[(1048575, 1)], by decide, by decide⟩

theorem test_witness_EveryStepKeepsTheInvariant : ∃ s t : State, s.Inv ∧ step s = .next t ∧ s.host ≠ [] :=
  ⟨{ readyState with host := [.submit rectWords] }, _, inv_ready, eq_next_of_answers (s := readyState) (by decide),
    by decide⟩

theorem test_witness_CommandsCarryNothingButVramAndArea :
    ∃ s s' : State, s ≠ s' ∧ s.seq = .idle ∧ s'.seq = .idle ∧ s.mem = s'.mem ∧ s.da = s'.da ∧ s.params = s'.params
      ∧ s.fault = s'.fault :=
  ⟨readyState, { readyState with cl := some rectInstr, recordIndex := 5 }, by decide, rfl, rfl, rfl, rfl, rfl, rfl⟩

theorem admissible_default : DitherAdmissible defaultParams := by unfold DitherAdmissible; decide

/-- A launch of R340: SETAREA first, a HOST write, then RE7's record, another behind it. -/
def launchState (ws : List Word) : State :=
  { State.reset with host := [.submit areaWords, .writeVram 5 5 1, .submit ws, .submit lineWords] }

theorem launched (ws : List Word) :
    Launched [areaWords, ws, lineWords] [] ⟨0, 0, 1023, 511, true⟩ (launchState ws) :=
  ⟨⟨rfl, rfl, rfl, rfl⟩, rfl, .inr (by decide : startsWithSetarea [areaWords] = true), admissible_default, rfl, rfl⟩

/-- The other alternative of LP_AREA: the area is set before the run. -/
theorem launched_area_set :
    Launched [rectWords] [] ⟨0, 0, 1023, 511, true⟩ { readyState with host := [.submit rectWords] } :=
  ⟨⟨rfl, rfl, rfl, rfl⟩, rfl, .inl ⟨rfl, rfl⟩, admissible_default, rfl, rfl⟩

/-- Both ends of a run are met: a run that is launched and ends final, and one that is launched and ends halted with a
record left. -/
theorem test_witness_EveryLaunchedRunEnds :
    Memory.wf [] = true ∧ Launched [areaWords, rectWords, lineWords] [] ⟨0, 0, 1023, 511, true⟩ (launchState rectWords)
      ∧ (runEnd 4 (launchState rectWords)).map (fun t => (t.seq, t.host, t.vram 10 20, t.vram 5 5)) =
        some (.idle, [], 0x1F, 1)
      ∧ Launched [areaWords, [5], lineWords] [] ⟨0, 0, 1023, 511, true⟩ (launchState [5])
      ∧ (runEnd 4 (launchState [5])).map (fun t => (t.seq, t.host, t.refused)) =
        some (.halted, [.submit lineWords], some ⟨.kind, 1⟩) :=
  ⟨by decide, launched _, by decide, launched _, by decide⟩

/-- A reset behind a refused record does not make the run go on: the run ends at HALTED (R338). -/
theorem test_run_ends_at_halted :
    (runEnd 5 { State.reset with host := [.submit [5], .reset] }).map (fun t => (t.seq, t.host)) =
      some (.halted, [.reset]) := by decide

/-- After a FAULT the rest of the unit stays queued, and the next step is stuck (log 26). -/
theorem test_rest_of_unit_after_fault :
    (nextOf wideState
      (step { wideState with host := [.submit ([0x00000000, 0x00000000, 0x00000000, 0x00000000, 0x0000FFFF, 0x000603FE,
        0x00010003, 0x0000FF00, 0x00000000] ++ areaWords), .reset] })).host = [.submit areaWords, .reset] := by decide

/-- 10_state.md R37 holds of the default matrix and shuts out one whose entry [2][3] is 1000. -/
theorem test_witness_admissible :
    DitherAdmissible defaultParams
      ∧ ¬DitherAdmissible { defaultParams with ditherMatrix := { defaultDitherMatrix with r2 := ⟨0, 0, 0, 1000⟩ } } := by
  unfold DitherAdmissible; decide

theorem test_witness_DecodeOfEncodeIsTheCommand : ∀ i ∈ [rectInstr, lineInstr, triInstr, quadInstr], WellFormed i = true := by
  decide

/-- For EncodeOfDecodeIsTheRecord, OpcodeMapNamesTheKind and RecordLengthIsFixedByTheKind. -/
theorem test_witness_records_decode :
    ∃ (h : Word) (ws rest : List Word) (i : Instr), decode (h :: ws) = .ok (i, rest) ∧ rest ≠ [] :=
  ⟨0x00000083, quadWords.tail ++ areaWords, areaWords, quadInstr, by decide, by decide⟩

/-- Every clause of the table is met, and none. -/
theorem test_witness_RefusalFollowsTheTable :
    ([refusalByTable true 0x00004000 rectWords.tail, refusalByTable true 0x00100005 rectWords.tail,
      refusalByTable true 0x00000005 rectWords.tail, refusalByTable true 0 (rectWords.tail.take 7),
      refusalByTable false 0x0000000C [0x00000000, 0x01FF03FF], refusalByTable false 0 rectWords.tail,
      refusalByTable true 0x00000008 rectWords.tail, refusalByTable true 0x00000011 lineWords.tail,
      refusalByTable true 0x00000C10 rectWords.tail, refusalByTable true 0 (rectWords.tail.set 1 0x00000400),
      refusalByTable true 0 rectWords.tail, refusalByTable false 4 areaWords.tail] =
    [some .hdrRsv, some .hdrRsv, some .kind, some .len, some .setareaFlags, some .daUnset, some .flags, some .flags,
      some .tmode, some .fieldRsv, none, none])
    ∧ ∃ (s : State) (rest : List HostAction), s.seq = .idle ∧ s.da.set = false
        ∧ s.host = .submit (0 :: rectWords.tail) :: rest ∧ refusalByTable false 0 rectWords.tail = some .daUnset :=
  ⟨by decide, { State.reset with host := [.submit (0 :: rectWords.tail)] }, [], rfl, rfl, rfl, by decide⟩

/-- The operands at the ends of their ranges (30_encoding.md R122). -/
theorem test_witness_AssembledOperandsDecodeToThemselves :
    signedOp 11 (-1024) = some 0x400 ∧ signedOp 11 1023 = some 0x3FF ∧ signedOp 11 1024 = none
      ∧ signedOp 11 (-1025) = none ∧ unsignedOp 9 511 = some 511 ∧ unsignedOp 9 512 = none ∧ unsignedOp 9 (-1) = none := by
  decide

theorem test_witness_AssembledCommandsAreWellFormed :
    ∃ ls is, assemble ls = some is ∧ rectInstr ∈ is :=
  ⟨[.rect [] 10 20 2 2 255 0 0 none], [rectInstr], by decide, by decide⟩

theorem test_witness_SetareaWritesTheArea : State.reset.seq = .idle ∧ State.reset.da.set = false := by decide

theorem test_witness_DrawWithoutAreaOrModeIsRefused :
    (∃ (i : Instr) (s : State), i.kind ≠ .setarea ∧ s.seq = .idle ∧ s.da.set = false)
      ∧ ∃ (i : Instr) (s : State), i.kind ≠ .setarea ∧ s.seq = .idle ∧ s.da.set = true ∧ WellFormed i = false :=
  ⟨⟨rectInstr, State.reset, by decide, rfl, rfl⟩,
    ⟨.rect ⟨true, false⟩ reservedMode ⟨0, 0⟩ ⟨1, 1⟩ red zeroUV, readyState, by decide, rfl, rfl, by decide⟩⟩

/-- RE7's rectangle. -/
def re7 : Instr := .rect ⟨false, false⟩ asmInit ⟨1022, 6⟩ ⟨3, 1⟩ ⟨0, 255, 0⟩ zeroUV

/-- TR5, TR6 and TR4: flat, oversized and collinear. -/
def flatTri : Instr := .tri ⟨false, false, false, false⟩ asmInit (vert 0 0 red) (vert 5 0 red) (vert 9 0 red)

/-- Each of the four outcomes. -/
theorem test_witness_EveryCommandHasOneOutcome :
    readyState.Inv ∧ readyState.seq = .idle ∧ commandOutcome rectInstr readyState = some .completed
      ∧ commandOutcome flatTri readyState = some .dropped
      ∧ commandOutcome (.rect ⟨true, false⟩ reservedMode ⟨0, 0⟩ ⟨1, 1⟩ red zeroUV) readyState = some (.refused .tmode)
      ∧ commandOutcome re7 wideState = some (.faulted 1024 6) :=
  ⟨inv_ready, rfl, by decide, by decide, by decide, by decide⟩

/-- SA4's area leaves column 0 out. -/
theorem test_witness_WritesStayInsideTheArea :
    ∃ (i : Instr) (s t : State) (a : Nat), exec i s = .next t
      ∧ ∀ x y : Nat, x < 1024 → y < 512 → wordHolds x y a → (s.da.hasCol (x : Int) && s.da.hasRow (y : Int)) = false := by
  refine ⟨triInstr, { readyState with da := ⟨1, 0, 3, 3, true⟩ }, _, 0,
    eq_next_of_answers (s := readyState) (by decide), ?_⟩
  intro x y hx hy hw
  have e : x = 0 ∧ y = 0 := by
    unfold wordHolds vramAddr at hw
    simp only [vramWidth] at hw
    omega
  rw [e.1, e.2]
  decide

/-- L1-S2. -/
theorem test_witness_MaskedPixelsAreUnchanged :
    ∃ (i : Instr) (c : DrawCfg) (s t : State), configOf i = some c ∧ exec i s = .next t
      ∧ s.vram 5 5 &&& c.maskAnd ≠ 0 :=
  ⟨.rect ⟨false, false⟩ { asmInit with maskAnd := 0x8000 } ⟨5, 5⟩ ⟨1, 1⟩ ⟨255, 255, 255⟩ zeroUV, _,
    readyOver [(5, 5, 0x8000)], _, rfl, eq_next_of_answers (s := readyState) (by decide), by decide⟩

/-- RE4 and RE5. -/
theorem test_witness_InterlacedRowsAreUnchanged :
    (∃ (i : Instr) (c : DrawCfg) (s t : State), configOf i = some c ∧ exec i s = .next t ∧ c.ilace = true
      ∧ 510 % 2 = c.alsb.toNat)
    ∧ ∃ (i : Instr) (c : DrawCfg) (s t : State), configOf i = some c ∧ exec i s = .next t ∧ c.ilace = true
      ∧ 511 % 2 = c.alsb.toNat :=
  ⟨⟨.rect ⟨false, false⟩ { asmInit with ilace := true } ⟨0, 508⟩ ⟨1, 4⟩ red zeroUV, _, readyState, _, rfl,
      eq_next_of_answers (s := readyState) (by decide), rfl, rfl⟩,
    ⟨.rect ⟨false, false⟩ { asmInit with ilace := true, alsb := true } ⟨0, 508⟩ ⟨1, 4⟩ red zeroUV, _, readyState, _, rfl,
      eq_next_of_answers (s := readyState) (by decide), rfl, rfl⟩⟩

/-- SA2, and an area empty in y alone. -/
theorem test_witness_EmptyAreaDrawsNothing :
    (∃ (i : Instr) (s : State), i.kind ≠ .setarea ∧ s.ready = true ∧ WellFormed i = true ∧ s.da.r < s.da.l)
      ∧ ∃ (i : Instr) (s : State), i.kind ≠ .setarea ∧ s.ready = true ∧ WellFormed i = true ∧ s.da.b < s.da.t :=
  ⟨⟨rectInstr, { readyState with da := ⟨0, 0, -1, -1, true⟩ }, by decide, by decide, by decide, by decide⟩,
    ⟨lineInstr, { readyState with da := ⟨0, 1, 1023, 0, true⟩ }, by decide, by decide, by decide, by decide⟩⟩

theorem test_witness_FaultIsPreciseAtThePixel :
    ∃ (i : Instr) (c : DrawCfg) (s : State) (pre post : List Frag) (g : Frag),
      configOf i = some c ∧ s.ready = true ∧ WellFormed i = true ∧ fragsOf s.params s.da i = pre ++ g :: post
        ∧ (∀ f ∈ pre, inVram f.x f.y = true) ∧ inVram g.x g.y = false ∧ pre ≠ [] :=
  ⟨re7, asmInit, wideState, (fragsOf wideState.params wideState.da re7).take 2, [],
    ⟨.rect 0 2, 1024, 6, 0, 255, 0, 2, 0⟩, rfl, by decide, by decide, by decide, by decide, by decide, by decide⟩

theorem test_witness_FaultsOnlyOutsideVram : ∃ (i : Instr) (s t : State), exec i s = .next t ∧ t.fault ≠ s.fault :=
  ⟨re7, wideState, nextOf wideState (exec re7 wideState), eq_next_of_answers (by decide), by decide⟩

/-- A configuration that differs from the directive state in fields an untextured opaque draw ignores. -/
def otherCfg : DrawCfg :=
  { asmInit with tmode := .reserved, bmode := .sub, alsb := true, pageX := 1, pageY := 1, clutX := 1, clutY := 1,
                 winAndX := 0, winOrY := 7 }

theorem sameEffective_other : SameEffectiveCfg (rectEff ⟨false, true⟩ asmInit) asmInit otherCfg := by
  unfold SameEffectiveCfg; decide

theorem test_witness_IgnoredFields_rect :
    rectEff ⟨false, true⟩ asmInit = rectEff ⟨false, false⟩ otherCfg
      ∧ SameEffectiveCfg (rectEff ⟨false, true⟩ asmInit) asmInit otherCfg ∧ readyState.ready = true
      ∧ WellFormed (.rect ⟨false, true⟩ asmInit ⟨0, 0⟩ ⟨1, 1⟩ red ⟨1, 1⟩) = true
      ∧ WellFormed (.rect ⟨false, false⟩ otherCfg ⟨0, 0⟩ ⟨1, 1⟩ red zeroUV) = true :=
  ⟨by decide, sameEffective_other, by decide, by decide, by decide⟩

theorem test_witness_IgnoredFields_line :
    ∃ (f f' : LineFlags) (c c' : DrawCfg) (p0 p1 p1' : LineVertex), lineEff f c = lineEff f' c'
      ∧ SameEffectiveCfg (lineEff f c) c c' ∧ p1.pos = p1'.pos ∧ p1.color ≠ p1'.color ∧ f.shade = false
      ∧ p0.pos.xInt < p1.pos.xInt :=
  ⟨⟨false, false⟩, ⟨false, false⟩, asmInit, otherCfg, ⟨⟨0, 0⟩, red⟩, ⟨⟨3, 1⟩, red⟩, ⟨⟨3, 1⟩, grey⟩, by decide,
    by unfold SameEffectiveCfg; decide, rfl, by decide, rfl, by decide⟩

theorem test_witness_IgnoredFields_poly :
    ∃ (f f' : PolyFlags) (c c' : DrawCfg) (v w : Vertex),
      polyEff readyState.params.untexTriDither f c = polyEff readyState.params.untexTriDither f' c'
        ∧ SameEffectiveCfg (polyEff readyState.params.untexTriDither f c) c c' ∧ SameEffectiveVertex f.tex v w ∧ v ≠ w
        ∧ WellFormed (.tri f c v v v) = true ∧ WellFormed (.tri f' c' w w w) = true
        ∧ WellFormed (.quad f c v v v v) = true ∧ WellFormed (.quad f' c' w w w w) = true :=
  ⟨⟨true, false, true, false⟩, ⟨true, false, false, false⟩, asmInit, otherCfg, vert 1 2 red, ⟨⟨1, 2⟩, red, ⟨9, 9⟩⟩,
    by decide, by unfold SameEffectiveCfg; decide, by unfold SameEffectiveVertex; decide, by decide, by decide, by decide,
    by decide, by decide⟩

/-- A textured rectangle over VRAM all zero. -/
theorem test_witness_ZeroTexelsDrawNothing :
    ∃ (i : Instr) (c : DrawCfg) (s : State), configOf i = some c ∧ s.ready = true ∧ WellFormed i = true
      ∧ (effectiveFlags s.params i).tex = true ∧ fragsOf s.params s.da i ≠ []
      ∧ ∀ f ∈ fragsOf s.params s.da i,
          inVram f.x f.y = true ∧ fetchTexel c s.mem (windowU c f.u) (windowV c f.v) = 0 :=
  ⟨.rect ⟨true, false⟩ asmInit ⟨10, 20⟩ ⟨2, 2⟩ red zeroUV, asmInit, readyState, rfl, by decide, by decide, rfl,
    by decide, by decide⟩

theorem test_witness_OpaqueUntexturedDrawIsIdempotent :
    ∃ (i : Instr) (c : DrawCfg) (s t : State), configOf i = some c ∧ s.mem.wf = true
      ∧ (effectiveFlags s.params i).tex = false ∧ (effectiveFlags s.params i).trans = false ∧ c.maskAnd = 0
      ∧ c.maskOr = 0 ∧ exec i s = .next t ∧ t.seq = .idle ∧ t.mem ≠ s.mem :=
  ⟨rectInstr, asmInit, readyState, nextOf readyState (exec rectInstr readyState), rfl, by decide, rfl, rfl, rfl, rfl,
    eq_next_of_answers (by decide), by decide, by decide⟩

theorem test_witness_NoPixelIsShadedTwice :
    ∀ i ∈ [rectInstr, lineInstr, triInstr], i.kind ≠ .quad ∧ fragsOf defaultParams readyState.da i ≠ [] := by decide

theorem test_witness_BlendFollowsThePerChannelLaws : maskBit 0x8000 = true ∧ maskBit 0xFFFF = true := by decide

theorem test_witness_UntexturedWordsKeepBit15Clear :
    ∃ (sh : Shader) (m : Memory) (f : Frag) (w : Pixel), sh.eff.tex = false ∧ pixelWord sh m f = some w :=
  ⟨lineShader ⟨false, false⟩ asmInit readyState, [], lineCall false ⟨⟨0, 0⟩, red⟩ ⟨⟨3, 1⟩, red⟩ 0, 0x1F, rfl, by decide⟩

/-- SH22's state, with a texel of bit 15 clear and one of bit 15 set. -/
def blendState : State := readyOver [(0, 0, 0x1F), (1, 0, 0x801F), (800, 40, 0x7C00), (801, 40, 0x7C00)]

/-- SH22's shader: raw, semi-transparent, Add, and the given MASK_AND. -/
def blendShader (maskAnd : BitVec 16) : Shader :=
  rectShader ⟨true, true⟩ { asmInit with trans := true, tmode := .direct15, bmode := .add, maskAnd := maskAnd } blendState

/-- SH22's pixel at `(800 + u, 40)`. -/
def blendFrag (u : Nat) : Frag := ⟨.start, 800 + u, 40, 0, 0, 0, BitVec.ofNat 8 u, 0⟩

/-- SH22, as the clauses on the textured word: a texel with bit 15 clear, one with bit 15 set, a zero texel, a masked
word. -/
theorem test_witness_textured_words :
    pixelWord (blendShader 0) blendState.mem (blendFrag 0) = some 0x1F
      ∧ pixelWord (blendShader 0) blendState.mem (blendFrag 1) = some 0xFC1F
      ∧ pixelWord (blendShader 0) blendState.mem (blendFrag 2) = none
      ∧ pixelWord (blendShader 0x4000) blendState.mem (blendFrag 1) = none := by decide

/-- The page of R144's example wraps to column 6, and so does a palette entry past column 1023. -/
theorem test_witness_TextureReadsWrapIntoVram :
    let direct : DrawCfg := { asmInit with tmode := .direct15, pageX := 1000, pageY := 511 }
    let palette : DrawCfg := { asmInit with tmode := .palette8, clutX := 1023, clutY := 300 }
    (texelReads asmInit [] 0 0).getLast? = some (0, 0) ∧ asmInit.tmode ≠ .reserved
      ∧ texelReads direct [] (windowU direct 30) (windowV direct 1) = [(6, 0)]
      ∧ texelReads palette (Memory.vwrite [] 1 0 0xAB12) (windowU palette 3) (windowV palette 0) = [(1, 0), (170, 300)] := by
  decide

/-- The second statement has a byte that the rectangle does not reach: a word just right of it. -/
theorem test_witness_RectCompletesInsideItsFootprint :
    readyState.ready = true ∧ WellFormed rectInstr = true
      ∧ (∀ x y : Int, rectCovers readyState.da asmInit ⟨10, 20⟩ ⟨2, 2⟩ x y = true → inVram x y = true)
      ∧ rectCovers readyState.da asmInit ⟨10, 20⟩ ⟨2, 2⟩ 11 21 = true
      ∧ rectCovers readyState.da asmInit ⟨10, 20⟩ ⟨2, 2⟩ 12 20 = false :=
  ⟨by decide, by decide, rectCovers_inVram _ _ _, by decide, by decide⟩

/-- L1-S3, textured. -/
def texturedState : State := readyOver [(0, 0, 0x10), (1, 500, 0x7FFF)]

/-- L1-S3's configuration. -/
def texturedCfg : DrawCfg := { asmInit with clutY := 500 }

theorem test_witness_RectDrawsExactlyItsPixels :
    texturedState.ready = true ∧ texturedState.mem.wf = true
      ∧ WellFormed (.rect ⟨true, false⟩ texturedCfg ⟨100, 100⟩ ⟨2, 1⟩ ⟨255, 255, 255⟩ zeroUV) = true
      ∧ (∀ x y : Int, rectCovers texturedState.da texturedCfg ⟨100, 100⟩ ⟨2, 1⟩ x y = true → inVram x y = true)
      ∧ NoSelfTexture (rectShader ⟨true, false⟩ texturedCfg texturedState) texturedState.mem
          (rectFrags texturedState.da texturedCfg ⟨100, 100⟩ ⟨2, 1⟩ ⟨255, 255, 255⟩ zeroUV) :=
  ⟨by decide, by decide, by decide, rectCovers_inVram _ _ _, by unfold NoSelfTexture; decide⟩

/-- The texture row wraps from 255 to 0. -/
theorem test_witness_RectIsItsRowsInOrder :
    ∃ (o o' : XY) (h k hk : BitVec 9) (uv uv' : UV),
      (∀ x y : Int, rectCovers readyState.da asmInit o ⟨2, hk⟩ x y = true → inVram x y = true)
        ∧ WellFormed (.rect ⟨true, false⟩ asmInit o ⟨2, hk⟩ red uv) = true ∧ hk.toNat = h.toNat + k.toNat
        ∧ o'.xInt = o.xInt ∧ o'.yInt = o.yInt + (h.toNat : Int) ∧ uv'.u = uv.u
        ∧ uv'.v.toNat = (uv.v.toNat + h.toNat) % 256 :=
  ⟨⟨-1, -1⟩, ⟨-1, 0⟩, 1, 2, 3, ⟨0, 255⟩, ⟨0, 0⟩, rectCovers_inVram _ _ _, by decide, by decide, by decide, by decide, rfl,
    by decide⟩

/-- LI9 to LI11: the two clauses at the ends of their ranges. -/
theorem test_witness_OversizedLineIsDropped :
    (∃ p0 p1 : LineVertex, 1024 ≤ |p1.pos.xInt - p0.pos.xInt|) ∧ (∃ p0 p1 : LineVertex, 512 ≤ |p1.pos.yInt - p0.pos.yInt|)
      ∧ ∃ p0 p1 : LineVertex, |p1.pos.xInt - p0.pos.xInt| = 1023 ∧ |p1.pos.yInt - p0.pos.yInt| = 511 :=
  ⟨⟨⟨⟨0, 0⟩, red⟩, ⟨⟨-1024, 0⟩, red⟩, by decide⟩, ⟨⟨⟨0, 0⟩, red⟩, ⟨⟨0, 512⟩, red⟩, by decide⟩,
    ⟨⟨⟨0, 0⟩, red⟩, ⟨⟨1023, 511⟩, red⟩, by decide, by decide⟩⟩

/-- LI6: two of the pixels are clipped, the others drawn. -/
theorem test_witness_LineDrawsExactlyItsSteps :
    ∃ p0 p1 : LineVertex, lineTooLong p0 p1 = false
      ∧ (∀ i : Nat, (i : Int) ≤ lineK p0 p1 →
          linePixelDrawn readyState.da asmInit (lineCall false p0 p1 i).x (lineCall false p0 p1 i).y = true →
            inVram (lineCall false p0 p1 i).x (lineCall false p0 p1 i).y = true)
      ∧ linePixelDrawn readyState.da asmInit (lineCall false p0 p1 2).x (lineCall false p0 p1 2).y = true
      ∧ linePixelDrawn readyState.da asmInit (lineCall false p0 p1 0).x (lineCall false p0 p1 0).y = false := by
  refine ⟨⟨⟨-2, 0⟩, red⟩, ⟨⟨2, 0⟩, red⟩, by decide, fun i _ h => ?_, by decide, by decide⟩
  simp only [linePixelDrawn, Bool.and_eq_true] at h
  exact area_inVram h.1.2 h.2

/-- For LineVisitsBothEndpoints and LineRegistersNeverWrap: the longest line, its last step and a line of length 0. -/
theorem test_witness_longest_line :
    (∃ (p0 p1 : LineVertex) (i : Nat), lineTooLong p0 p1 = false ∧ lineK p0 p1 = 1023 ∧ (i : Int) = lineK p0 p1 + 1)
      ∧ ∃ p0 p1 : LineVertex, lineTooLong p0 p1 = false ∧ lineK p0 p1 = 0 :=
  ⟨⟨⟨⟨0, 0⟩, red⟩, ⟨⟨1023, 511⟩, red⟩, 1024, by decide, by decide, by decide⟩,
    ⟨⟨⟨5, 5⟩, red⟩, ⟨⟨5, 5⟩, red⟩, by decide, by decide⟩⟩

/-- LI5's last step, and the first step of a line that fades. -/
theorem test_witness_LineColourStaysBetweenItsEnds :
    (∃ (k : Int) (i : Nat), 0 < k ∧ (i : Int) ≤ k ∧ lineChannel (startColor 0 + (i : Int) * stepColor true 0 255 k) = 255)
      ∧ ∃ (k : Int) (i : Nat), 0 < k ∧ (i : Int) ≤ k
          ∧ lineChannel (startColor 255 + (i : Int) * stepColor true 255 0 k) = 0 :=
  ⟨⟨10, 10, by decide, by decide, by decide⟩, ⟨7, 7, by decide, by decide, by decide⟩⟩

/-- TR5, TR6, a triangle too tall, and TR4; and the largest extents that are not dropped. -/
theorem test_witness_DegenerateTriangleIsDropped :
    readyState.ready = true ∧ WellFormed flatTri = true
      ∧ DegenerateTriangle (vert 0 0 red) (vert 5 0 red) (vert 9 0 red)
      ∧ DegenerateTriangle (vert (-512) 0 red) (vert 0 1 red) (vert 512 0 red)
      ∧ DegenerateTriangle (vert 0 0 red) (vert 5 1 red) (vert 0 512 red)
      ∧ DegenerateTriangle (vert 0 0 red) (vert 5 5 red) (vert 10 10 red)
      ∧ ¬DegenerateTriangle (vert (-1024) 0 red) (vert (-1) 0 red) (vert (-1024) 511 grey) := by
  unfold DegenerateTriangle; decide

/-- For the four statements about the pixels of a triangle: TR3 shades a pixel, in every one of the two flags. -/
theorem test_witness_triangle_pixels :
    ∃ g, g ∈ triangleFrags readyState.da asmInit ⟨false, false, false, false⟩ false (vert 0 0 red) (vert 1 0 red) (vert 0 1 red)
      ∧ g.x = 0 ∧ g.y = 0 :=
  ⟨⟨.tri false 1 0 0, 0, 0, 255, 0, 0, 0, 0⟩, by decide, rfl, rfl⟩

/-- TR8: a row's last covered column, the column after it, and the row below the last. -/
theorem test_witness_TriangleCoverageIsTheSteppedBounds :
    let s := sortedOf (vert 0 0 red) (vert 4 0 red) (vert 0 4 red)
    (triCovers readyState.da asmInit s 3 0, triCovers readyState.da asmInit s 4 0, triCovers readyState.da asmInit s 0 3,
      triCovers readyState.da asmInit s 0 4) = (true, false, true, false) := by decide

/-- The largest triangle that is not dropped. -/
theorem test_witness_TriangleRegistersNeverWrap :
    (sortedOf (vert (-1024) 0 red) (vert (-1) 0 red) (vert (-1024) 511 grey)).dropped = false
      ∧ (sortedOf (vert (-1024) 0 red) (vert (-1) 0 red) (vert (-1024) 511 grey)).lower.yb = 511 := by decide

theorem test_witness_TriCompletesInsideItsCoverage :
    readyState.ready = true ∧ WellFormed triInstr = true
      ∧ (∀ x y : Int,
          triCovers readyState.da asmInit (sortedOf (vert 0 0 red) (vert 1 0 red) (vert 0 1 red)) x y = true →
            inVram x y = true)
      ∧ triCovers readyState.da asmInit (sortedOf (vert 0 0 red) (vert 1 0 red) (vert 0 1 red)) 1 0 = false :=
  ⟨by decide, by decide, triCovers_inVram _ _, by decide⟩

/-- A vertex with texture coordinates. -/
def texVert (x y : BitVec 11) (u v : Byte) : Vertex := ⟨⟨x, y⟩, red, ⟨u, v⟩⟩

theorem test_witness_TriDrawsExactlyItsPixels :
    texturedState.ready = true ∧ texturedState.mem.wf = true
      ∧ WellFormed (.tri ⟨false, true, false, false⟩ texturedCfg (texVert 100 100 0 0) (texVert 102 100 2 0)
          (texVert 100 102 0 2)) = true
      ∧ (∀ x y : Int,
          triCovers texturedState.da texturedCfg
            (sortedOf (texVert 100 100 0 0) (texVert 102 100 2 0) (texVert 100 102 0 2)) x y = true → inVram x y = true)
      ∧ NoSelfTexture (polyShader ⟨false, true, false, false⟩ texturedCfg texturedState) texturedState.mem
          (triangleFrags texturedState.da texturedCfg ⟨false, true, false, false⟩ false (texVert 100 100 0 0)
            (texVert 102 100 2 0) (texVert 100 102 0 2)) :=
  ⟨by decide, by decide, by decide, triCovers_inVram _ _, by unfold NoSelfTexture; decide +kernel⟩

theorem test_witness_QuadIsItsTwoTriangles :
    readyState.ready = true ∧ WellFormed quadInstr = true
      ∧ (∀ x y : Int,
          triCovers readyState.da asmInit (sortedOf (vert 0 0 grey) (vert 4 0 grey) (vert 0 4 grey)) x y = true →
            inVram x y = true)
      ∧ (∀ x y : Int,
          triCovers readyState.da asmInit
            (if readyState.params.quadOrder = .o123 then sortedOf (vert 4 0 grey) (vert 0 4 grey) (vert 4 4 grey)
              else sortedOf (vert 0 4 grey) (vert 4 0 grey) (vert 4 4 grey)) x y = true →
            inVram x y = true) :=
  ⟨by decide, by decide, triCovers_inVram _ _, triCovers_inVram _ _⟩

/-- SA3's area, and TR7's triangle, whose first pixel is outside VRAM. -/
theorem test_witness_FaultInTheFirstTriangleEndsTheQuad :
    ∃ s t : State, s.ready = true
      ∧ WellFormed (.quad ⟨false, false, false, false⟩ asmInit (vert (-3) 0 red) (vert 2 0 red) (vert (-3) 2 red)
          (vert 2 2 red)) = true
      ∧ exec (.tri ⟨false, false, false, false⟩ asmInit (vert (-3) 0 red) (vert 2 0 red) (vert (-3) 2 red)) s = .next t
      ∧ t.seq = .halted ∧ t.fault = some ⟨.outOfVram, -3, 0, .tri⟩ :=
  ⟨{ readyState with da := ⟨-5, -5, 2047, 1023, true⟩ }, _, by decide, by decide,
    eq_next_of_answers (s := readyState) (by decide), by decide, by decide⟩

end Sys2Proof.Tests
end

/-!
SUPPORT. The proofs of the family "state": power-up, what a command and a step keep, where a fault can be, the line
engine's register widths and the runs of 70_reset_and_hazards.md R338.
-/

namespace Sys2Proof.Machine

open Sys2Proof.Config

/-! ### A clean block and the invariant -/

/-- A clean block over canonical VRAM meets the invariant. -/
theorem State.Clean.inv {s : State} (hc : s.Clean) (hm : s.mem.wf = true) : s.Inv := by
  obtain ⟨hseq, hcl, hfault, hrefused⟩ := hc
  exact ⟨hm, .inl hseq, hcl, by simp [hseq, hfault, hrefused], .inl hfault, by simp [hfault]⟩

/-- Under the invariant an idle block is clean. -/
theorem State.Inv.clean {s : State} (h : s.Inv) (hs : s.seq = .idle) : s.Clean := by
  obtain ⟨-, -, hcl, hmarks, -, -⟩ := h
  simp only [hs, reduceCtorEq, false_iff, not_or, not_not] at hmarks
  exact ⟨hs, hcl, hmarks.1, hmarks.2⟩

theorem State.Inv.mem_wf {s : State} (h : s.Inv) : s.mem.wf = true := h.1

theorem State.Inv.idle_or_halted {s : State} (h : s.Inv) : s.seq = .idle ∨ s.seq = .halted := h.2.1

/-- Under the invariant a halted block holds a mark. -/
theorem State.Inv.marked {s : State} (h : s.Inv) (hs : s.seq = .halted) : s.fault ≠ none ∨ s.refused ≠ none := by
  obtain ⟨-, -, -, hmarks, -, -⟩ := h
  exact hmarks.mp hs

/-! Neither of the two speaks of the HOST's side, and the marks and the sequencer do not speak of VRAM. -/

theorem State.Clean.withHost {s : State} (hc : s.Clean) (h : List HostAction) : (s.withHost h).Clean := hc

theorem State.Clean.withMem {s : State} (hc : s.Clean) (m : Memory) : (s.withMem m).Clean := hc

theorem State.Inv.withHost {s : State} (hI : s.Inv) (h : List HostAction) : (s.withHost h).Inv := hI

theorem State.Inv.advance {s : State} (hI : s.Inv) : s.advance.Inv := hI

theorem State.Inv.withMem {s : State} (h : s.Inv) {m : Memory} (hm : m.wf = true) : (s.withMem m).Inv := ⟨hm, h.2⟩

/-- A refusal on a clean block leaves the invariant (60_exceptions.md R304). -/
theorem State.Clean.inv_refuse {s : State} (hc : s.Clean) (hm : s.mem.wf = true) (r : RefReason) :
    (s.refuse r).Inv := by
  obtain ⟨-, -, hfault, -⟩ := hc
  exact ⟨hm, .inr rfl, rfl, by simp, .inl hfault, by simp [hfault]⟩

/-- A fault of a pixel outside VRAM on a clean block leaves the invariant (60_exceptions.md R303). -/
theorem State.Clean.inv_takeFault {s : State} (hc : s.Clean) (hm : s.mem.wf = true) (k : Kind) {x y : Int}
    (hv : inVram x y = false) : (s.takeFault k x y).Inv := by
  obtain ⟨-, -, -, hrefused⟩ := hc
  refine ⟨hm, .inr rfl, rfl, by simp, .inr hrefused, fun m he => ?_⟩
  obtain rfl := Option.some.inj he
  exact hv

theorem State.powerUp_clean (vram0 : Memory) (p : Params) : (State.powerUp vram0 p).Clean := ⟨rfl, rfl, rfl, rfl⟩

theorem State.hostReset_clean (s : State) : s.hostReset.Clean := ⟨rfl, rfl, rfl, rfl⟩

/-- A host write puts its word inside VRAM, so VRAM stays canonical. -/
theorem State.Inv.hostWrite {s : State} (h : s.Inv) (x : BitVec 10) (y : BitVec 9) (v : Pixel) :
    (s.hostWrite x y v).Inv :=
  h.withMem (Memory.wf_vwrite h.mem_wf x.isLt y.isLt)

/-! ### What every command and every step keep -/

/-- Every command keeps the invariant (10_state.md R38, R40, 60_exceptions.md R300, R303, R304). -/
theorem exec_keeps_inv {i : Instr} {s t : State} (hI : s.Inv) (h : exec i s = .next t) : t.Inv := by
  obtain ⟨hs, hcases⟩ := exec_next_cases h
  have hc := hI.clean hs
  obtain ⟨-, -, hfault, hrefused⟩ := hI.clean hs
  rcases hcases with ⟨l, u, r, b, -, rfl⟩ | ⟨c, -, hdraw⟩
  · exact State.Clean.inv ⟨rfl, rfl, hfault, hrefused⟩ hI.mem_wf
  · rcases hdraw with ⟨-, rfl⟩ | ⟨-, -, rfl⟩ | ⟨-, -, hin, rfl⟩ | ⟨-, -, pre, g, post, -, hin, hout, rfl⟩
    · exact hc.inv_refuse hI.mem_wf _
    · exact hc.inv_refuse hI.mem_wf _
    · exact State.Clean.inv ⟨rfl, rfl, hfault, hrefused⟩ (shadeAll_wf hI.mem_wf hin)
    · exact (hc.withMem _).inv_takeFault (shadeAll_wf hI.mem_wf hin) i.kind hout

/-- No command changes the parameters or the HOST's side. -/
theorem exec_frame {i : Instr} {s t : State} (h : exec i s = .next t) :
    t.params = s.params ∧ t.host = s.host ∧ t.recordIndex = s.recordIndex := by
  obtain ⟨-, ⟨l, u, r, b, -, rfl⟩ | ⟨c, -, hdraw⟩⟩ := exec_next_cases h
  · simp
  · rcases hdraw with ⟨-, rfl⟩ | ⟨-, -, rfl⟩ | ⟨-, -, -, rfl⟩ | ⟨-, -, pre, g, post, -, -, -, rfl⟩ <;> simp

/-- A draw never writes `DA` (10_state.md R33). -/
theorem exec_draw_da {i : Instr} {c : DrawCfg} {s t : State} (hc : configOf i = some c) (h : exec i s = .next t) :
    t.da = s.da := by
  obtain ⟨-, ⟨l, u, r, b, rfl, -⟩ | ⟨c, -, hdraw⟩⟩ := exec_next_cases h
  · cases hc
  · rcases hdraw with ⟨-, rfl⟩ | ⟨-, -, rfl⟩ | ⟨-, -, -, rfl⟩ | ⟨-, -, pre, g, post, -, -, -, rfl⟩ <;> rfl

/-- SETAREA's next state (44_control.md R290). -/
theorem exec_setarea_next {l u r b : BitVec 16} {s t : State} (h : exec (.setarea l u r b) s = .next t) :
    t = { s with da := ⟨l, u, r, b, true⟩, cl := none, seq := .idle } := by
  obtain ⟨-, ⟨l', u', r', b', he, rfl⟩ | ⟨c, hc, -⟩⟩ := exec_next_cases h
  · cases he; rfl
  · cases hc

/-- A command with a drawing configuration is no SETAREA. -/
theorem kind_ne_setarea_iff {i : Instr} : i.kind ≠ .setarea ↔ ∃ c, configOf i = some c := by
  cases i <;> simp [Instr.kind, configOf]

/-- A command of kind SETAREA is a SETAREA. -/
theorem kind_eq_setarea_iff {i : Instr} : i.kind = .setarea ↔ ∃ l u r b, i = .setarea l u r b := by
  cases i <;> simp [Instr.kind]

/-- Settles O1. -/
theorem powerUpLeavesTheBlockClean : Obligations.PowerUpLeavesTheBlockClean :=
  fun vram0 p => ⟨State.powerUp_clean vram0 p, rfl, rfl, rfl⟩

/-- Settles O9: a clean block over canonical VRAM meets the invariant. -/
theorem powerUpMeetsTheInvariant : Obligations.PowerUpMeetsTheInvariant :=
  fun vram0 p hm => (State.powerUp_clean vram0 p).inv hm

/-- Settles O10, action by action of the HOST; the command handed over keeps the invariant by `exec_keeps_inv`. -/
theorem everyStepKeepsTheInvariant : Obligations.EveryStepKeepsTheInvariant := by
  unfold Obligations.EveryStepKeepsTheInvariant
  intro s t hI h
  rcases step_next_cases h with ⟨-, rest, -, rfl⟩ | ⟨-, x, y, v, rest, -, rfl⟩ | ⟨-, -, rfl⟩ | ⟨hs, ws, rest, -, hsub⟩
  · exact ⟨(State.hostReset_clean _).inv hI.mem_wf, rfl⟩
  · exact ⟨(hI.withHost rest).hostWrite x y v, rfl⟩
  · exact ⟨hI, rfl⟩
  · rcases hsub with ⟨r, -, rfl⟩ | ⟨i, more, u, -, hu, rfl⟩
    · exact ⟨((hI.clean hs).withHost rest).inv_refuse hI.mem_wf r, rfl⟩
    · exact ⟨(exec_keeps_inv (hI.withHost _) hu).advance, (exec_frame hu).1⟩

/-- Settles O8: SETAREA by its one next state, every other command by the frame of a draw. -/
theorem onlySetareaWritesTheArea : Obligations.OnlySetareaWritesTheArea := by
  unfold Obligations.OnlySetareaWritesTheArea
  intro i s t h
  obtain ⟨hparams, hhost, hindex⟩ := exec_frame h
  refine ⟨hparams, hhost, hindex, fun hk => ?_, fun hk => ?_⟩
  · obtain ⟨c, hc⟩ := kind_ne_setarea_iff.mp hk
    exact exec_draw_da hc h
  · obtain ⟨l, u, r, b, rfl⟩ := kind_eq_setarea_iff.mp hk
    obtain rfl := exec_setarea_next h
    exact ⟨rfl, rfl, rfl⟩

/-! ### When a command and a step are taken -/

/-- A draw that starts while `DA.SET = 0` is refused (10_state.md R33). -/
theorem execDraw_daUnset {i : Instr} {sh : Shader} {fs : List Frag} {s : State} (hs : s.seq = .idle)
    (hd : s.da.set = false) : execDraw i sh fs s = .next (s.refuse .daUnset) := by
  unfold execDraw; rw [whenIdle_idle hs, hd]; rfl

/-- A draw textured in the reserved mode is refused (30_encoding.md R111 order 7; log 13). -/
theorem execDraw_tmode {i : Instr} {sh : Shader} {fs : List Frag} {s : State} (hs : s.seq = .idle)
    (hd : s.da.set = true) (hw : WellFormed i = false) : execDraw i sh fs s = .next (s.refuse .tmode) := by
  unfold execDraw; rw [whenIdle_idle hs, hd, hw]; rfl

theorem step_of_busy {s : State} {p : SeqPos} (h : s.seq = .busy p) : step s = .fault .busy := by
  unfold step hostStep; rw [h]

/-- A halted engine takes no command (93_implementation_defined.md U19). -/
theorem step_of_halted_submit {s : State} {ws : List Word} {rest : List HostAction} (h : s.seq = .halted)
    (hh : s.host = .submit ws :: rest) : step s = .fault .halted := by
  unfold step hostStep; rw [h, hh]

theorem step_of_halted_nil {s : State} (h : s.seq = .halted) (hh : s.host = []) : step s = .fault .halted := by
  unfold step hostStep; rw [h, hh]

/-- Settles O22. -/
theorem drawWithoutAreaOrModeIsRefused : Obligations.DrawWithoutAreaOrModeIsRefused := by
  unfold Obligations.DrawWithoutAreaOrModeIsRefused
  intro i s hk hs
  obtain ⟨c, hc⟩ := kind_ne_setarea_iff.mp hk
  rw [exec_draw s hc]
  exact ⟨execDraw_daUnset hs, execDraw_tmode hs⟩

/-- Settles O7. -/
theorem engineNotIdleAcceptsNoCommand : Obligations.EngineNotIdleAcceptsNoCommand := by
  unfold Obligations.EngineNotIdleAcceptsNoCommand
  exact fun s =>
    ⟨fun h => ⟨fun i => exec_of_halted i h, fun _ _ => step_of_halted_submit h, step_of_halted_nil h⟩,
      fun _ h => ⟨fun i => exec_of_busy i h, step_of_busy h⟩⟩

/-! ### Two idle states that agree on VRAM, `DA`, the parameters and `FAULT` -/

/-- What 10_state.md R39 lets a command read, and the fault mark it leaves as it is. -/
structure SameForCommands (s s' : State) : Prop where
  mem    : s.mem = s'.mem
  da     : s.da = s'.da
  params : s.params = s'.params
  fault  : s.fault = s'.fault

/-- The two next states of a command agree on all but the HOST's side; a refusal's position is the HOST's (log 6). -/
structure SameEnd (s s' t t' : State) : Prop where
  mem    : t.mem = t'.mem
  da     : t.da = t'.da
  seq    : t.seq = t'.seq
  cl     : t.cl = t'.cl
  fault  : t.fault = t'.fault
  reason : s.refused.map RefusalMark.reason = s'.refused.map RefusalMark.reason →
    t.refused.map RefusalMark.reason = t'.refused.map RefusalMark.reason

section
variable {s s' : State} (ha : SameForCommands s s')
include ha

theorem SameForCommands.refuse (r : RefReason) : SameEnd s s' (s.refuse r) (s'.refuse r) :=
  ⟨ha.mem, ha.da, rfl, rfl, ha.fault, fun _ => rfl⟩

theorem SameForCommands.takeFault (m : Memory) (k : Kind) (x y : Int) :
    SameEnd s s' ((s.withMem m).takeFault k x y) ((s'.withMem m).takeFault k x y) :=
  ⟨rfl, ha.da, rfl, rfl, rfl, id⟩

theorem SameForCommands.complete (m : Memory) :
    SameEnd s s' { s with mem := m, cl := none, seq := .idle } { s' with mem := m, cl := none, seq := .idle } :=
  ⟨rfl, ha.da, rfl, rfl, ha.fault, id⟩

theorem SameForCommands.writeArea (i : Instr) (l u r b : BitVec 16) :
    SameEnd s s' ((s.latch i).writeArea l u r b).finish ((s'.latch i).writeArea l u r b).finish :=
  ⟨ha.mem, rfl, rfl, rfl, ha.fault, id⟩

/-- A draw of the same pixels by the same shader answers next states that agree, whichever end it comes to. -/
theorem SameForCommands.execDraw (hs : s.seq = .idle) (hs' : s'.seq = .idle) (i : Instr) (sh : Shader)
    (fs : List Frag) :
    ∃ t t', execDraw i sh fs s = .next t ∧ execDraw i sh fs s' = .next t' ∧ SameEnd s s' t t' := by
  have hset : s'.da.set = s.da.set := by rw [ha.da]
  cases hd : s.da.set with
  | false => exact ⟨_, _, execDraw_daUnset hs hd, execDraw_daUnset hs' (hset.trans hd), ha.refuse _⟩
  | true =>
    cases hw : WellFormed i with
    | false => exact ⟨_, _, execDraw_tmode hs hd hw, execDraw_tmode hs' (hset.trans hd) hw, ha.refuse _⟩
    | true =>
      rcases allInside_or_first_outside fs with hin | ⟨pre, g, post, rfl, hin, hout⟩
      · refine ⟨_, _, execDraw_completes hs hd hw hin, execDraw_completes hs' (hset.trans hd) hw hin, ?_⟩
        rw [ha.mem]
        exact ha.complete _
      · refine ⟨_, _, execDraw_faults hs hd hw hin hout, execDraw_faults hs' (hset.trans hd) hw hin hout, ?_⟩
        rw [ha.mem]
        exact ha.takeFault _ _ _ _

/-- Every command on two such idle engines answers next states that agree. -/
theorem SameForCommands.exec (hs : s.seq = .idle) (hs' : s'.seq = .idle) (i : Instr) :
    ∃ t t', exec i s = .next t ∧ exec i s' = .next t' ∧ SameEnd s s' t t' := by
  rcases draw_or_setarea i with ⟨c, hc⟩ | ⟨l, u, r, b, rfl⟩
  · rw [exec_draw s hc, exec_draw s' hc, ← ha.params, ← ha.da]
    exact ha.execDraw hs hs' _ _ _
  · exact ⟨_, _, whenIdle_idle hs, whenIdle_idle hs', ha.writeArea _ l u r b⟩

end

/-- Settles O11. -/
theorem commandsCarryNothingButVramAndArea : Obligations.CommandsCarryNothingButVramAndArea := by
  unfold Obligations.CommandsCarryNothingButVramAndArea
  intro i s s' hs hs' hmem hda hparams hfault
  obtain ⟨t, t', ht, ht', h⟩ := SameForCommands.exec ⟨hmem, hda, hparams, hfault⟩ hs hs' i
  exact ⟨t, t', ht, ht', h.mem, h.da, h.seq, h.cl, h.fault, h.reason⟩

/-- An idle engine takes every command (70_reset_and_hazards.md R333). -/
theorem exec_idle_next (i : Instr) {s : State} (hs : s.seq = .idle) : ∃ t, exec i s = .next t := by
  obtain ⟨t, -, ht, -⟩ := SameForCommands.exec ⟨rfl, rfl, rfl, rfl⟩ hs hs i
  exact ⟨t, ht⟩

/-! ### Every pixel of a command lies in the drawing area (10_state.md R34) -/

/-- The coordinate lies in the drawing area. -/
def DrawArea.Has (da : DrawArea) (x y : Int) : Prop := da.hasCol x = true ∧ da.hasRow y = true

theorem DrawArea.hasCol_iff {da : DrawArea} {x : Int} : da.hasCol x = true ↔ da.l ≤ x ∧ x ≤ da.r := by
  simp [DrawArea.hasCol]

theorem DrawArea.hasRow_iff {da : DrawArea} {y : Int} : da.hasRow y = true ↔ da.t ≤ y ∧ y ≤ da.b := by
  simp [DrawArea.hasRow]

theorem has_of_mem_rectFrags {da : DrawArea} {c : DrawCfg} {o : XY} {sz : Size} {col : Color} {uv : UV} {g : Frag}
    (h : g ∈ rectFrags da c o sz col uv) : da.Has g.x g.y := by
  obtain ⟨oy, ox, -, -, hrow, -, hcol, rfl⟩ := mem_rectFrags_iff.mp h
  exact ⟨hcol, hrow⟩

theorem has_of_mem_lineWalk {da : DrawArea} {c : DrawCfg} {shade : Bool} {n : Nat} {r : LineRegs} {g : Frag}
    (h : g ∈ lineWalk da c shade n r) : da.Has g.x g.y := by
  induction n generalizing r with
  | zero => cases h
  | succ n ih =>
    unfold lineWalk at h
    dsimp only at h
    split at h
    · rename_i hdrawn
      rcases List.mem_cons.mp h with rfl | h
      · simp only [linePixelDrawn, Bool.and_eq_true] at hdrawn
        exact ⟨hdrawn.1.2, hdrawn.2⟩
      · exact ih h
    · exact ih h

theorem has_of_mem_lineFrags {da : DrawArea} {c : DrawCfg} {shade : Bool} {p0 p1 : LineVertex} {g : Frag}
    (h : g ∈ lineFrags da shade c p0 p1) : da.Has g.x g.y := by
  unfold lineFrags at h
  split at h
  · cases h
  · exact has_of_mem_lineWalk h

/-- Both clips of a span keep its pixels in the area's columns (43_triangle.md R253). -/
theorem hasCol_of_lt_spanWidth {da : DrawArea} {lc rc : Int} {k : Nat} (hk : k < (spanWidth da lc rc).toNat) :
    da.hasCol (spanStart da lc + (k : Int)) = true := by
  rw [DrawArea.hasCol_iff]
  unfold spanWidth at hk
  have hl : da.l ≤ spanStart da lc := by unfold spanStart; split <;> omega
  generalize spanStart da lc = x at hk hl ⊢
  dsimp only at hk
  split at hk <;> split at hk <;> omega

theorem has_of_mem_span {da : DrawArea} {c : DrawCfg} {p : Planes} {row : RowPos} {y lc rc : Int} {g : Frag}
    (hrow : da.hasRow y = true) (h : g ∈ span da c p row y lc rc) : da.Has g.x g.y := by
  unfold span at h
  split at h
  · cases h
  · obtain ⟨k, hk, rfl⟩ := (mem_spanPixels_iff ..).mp h
    exact ⟨hasCol_of_lt_spanWidth hk, hrow⟩

theorem has_of_mem_walkIncrement {da : DrawArea} {c : DrawCfg} {p : Planes} {row : RowPos} {ls rs : Int} {n : Nat}
    {y lc rc : Int} {g : Frag} (h : g ∈ walkIncrement da c p row ls rs n y lc rc) : da.Has g.x g.y := by
  induction n generalizing y lc rc with
  | zero => cases h
  | succ n ih =>
    unfold walkIncrement at h
    split at h
    · cases h
    · rename_i hb
      rcases List.mem_append.mp h with h | h
      · split at h
        · rename_i ht
          exact has_of_mem_span (DrawArea.hasRow_iff.mpr ⟨ht, Int.not_lt.mp hb⟩) h
        · cases h
      · exact ih h

theorem has_of_mem_walkDecrement {da : DrawArea} {c : DrawCfg} {p : Planes} {row : RowPos} {ls rs : Int} {n : Nat}
    {y lc rc : Int} {g : Frag} (h : g ∈ walkDecrement da c p row ls rs n y lc rc) : da.Has g.x g.y := by
  induction n generalizing y lc rc with
  | zero => cases h
  | succ n ih =>
    unfold walkDecrement at h
    split at h
    · cases h
    · rename_i ht
      rcases List.mem_append.mp h with h | h
      · split at h
        · cases h
        · rename_i hb
          exact has_of_mem_span (DrawArea.hasRow_iff.mpr ⟨Int.not_lt.mp ht, Int.not_lt.mp hb⟩) h
      · exact ih h

theorem has_of_mem_halfFrags {da : DrawArea} {c : DrawCfg} {p : Planes} {row : RowPos} {hf : Half} {g : Frag}
    (h : g ∈ Half.frags da c p row hf) : da.Has g.x g.y := by
  unfold Half.frags at h
  split at h
  · exact has_of_mem_walkDecrement h
  · exact has_of_mem_walkIncrement h

theorem has_of_mem_triangleFrags {da : DrawArea} {cfg : DrawCfg} {f : PolyFlags} {second : Bool} {a b c : Vertex}
    {g : Frag} (h : g ∈ triangleFrags da cfg f second a b c) : da.Has g.x g.y := by
  unfold triangleFrags at h
  dsimp only at h
  split at h
  · cases h
  · exact (List.mem_append.mp h).elim has_of_mem_halfFrags has_of_mem_halfFrags

/-- Every pixel a command shades lies in the drawing area. -/
theorem has_of_mem_fragsOf {p : Params} {da : DrawArea} {i : Instr} {g : Frag} (h : g ∈ fragsOf p da i) :
    da.Has g.x g.y := by
  cases i with
  | rect => exact has_of_mem_rectFrags h
  | line => exact has_of_mem_lineFrags h
  | tri => exact has_of_mem_triangleFrags h
  | quad => exact (List.mem_append.mp h).elim has_of_mem_triangleFrags has_of_mem_triangleFrags
  | setarea => cases h

/-- A command that changes the fault mark names the pixel that ended it: one of its own, outside VRAM. -/
theorem exec_fault_changed {i : Instr} {s t : State} (h : exec i s = .next t) (hne : t.fault ≠ s.fault) :
    ∃ g ∈ fragsOf s.params s.da i, inVram g.x g.y = false ∧ t.fault = some ⟨.outOfVram, g.x, g.y, i.kind⟩ := by
  obtain ⟨-, ⟨l, u, r, b, -, rfl⟩ | ⟨c, -, hdraw⟩⟩ := exec_next_cases h
  · exact absurd rfl hne
  · rcases hdraw with ⟨-, rfl⟩ | ⟨-, -, rfl⟩ | ⟨-, -, -, rfl⟩ | ⟨-, -, pre, g, post, hfs, -, hout, rfl⟩
    · exact absurd rfl hne
    · exact absurd rfl hne
    · exact absurd rfl hne
    · exact ⟨g, by simp [hfs], hout, rfl⟩

/-- Settles O29: the pixel the mark names is one of the command's, so it lies in the area. -/
theorem faultsOnlyOutsideVram : Obligations.FaultsOnlyOutsideVram := by
  unfold Obligations.FaultsOnlyOutsideVram
  intro i s t h hne
  obtain ⟨g, hg, hout, hmark⟩ := exec_fault_changed h hne
  obtain ⟨hcol, hrow⟩ := has_of_mem_fragsOf hg
  refine ⟨fun hin => ?_, g.x, g.y, hmark, hout, hcol, hrow⟩
  simp [hin g.x g.y hcol hrow] at hout

/-! ### The dither table without dithering (10_state.md R36, R37) -/

/-- `DITHER_LUT[2][3]` of the default matrix, whose entry there is 0. -/
theorem ditherLut_default (v : Nat) : (ditherLut defaultDitherMatrix 2 3 v).toNat = min 31 (v / 8) := by
  have hoff : ditherOffset defaultDitherMatrix 2 3 = 0 := rfl
  unfold ditherLut clamp asr
  rw [hoff, BitVec.toNat_ofInt]
  omega

/-- A 5-bit channel times 128, shifted right by 4, is the table's index of that channel. -/
theorem ditherLut_default_mul_128 (c : BitVec 5) :
    ditherLut defaultDitherMatrix 2 3 ((c.toNat * (128 : Byte).toNat) >>> 4) = c := by
  apply BitVec.eq_of_toNat_eq
  have hc := c.isLt
  have h128 : (128 : Byte).toNat = 128 := rfl
  rw [ditherLut_default, h128, Nat.shiftRight_eq_div_pow]
  omega

/-- A word is its channels packed (00_scope.md R16). -/
theorem pack_channels (p : Pixel) : pack (red p) (green p) (blue p) (maskBit p) = p := by
  have hm : BitVec.ofBool (p.getLsbD 15) = p.extractLsb' 15 1 := by
    ext i hi
    simp [show i = 0 by omega]
  unfold pack red green blue maskBit
  rw [hm, BitVec.extractLsb'_append_extractLsb'_eq_extractLsb' (show 15 = 10 + 5 from rfl),
    BitVec.extractLsb'_append_extractLsb'_eq_extractLsb' (show 10 = 5 + 5 from rfl),
    BitVec.extractLsb'_append_extractLsb'_eq_extractLsb' (show 5 = 0 + 5 from rfl)]
  exact BitVec.extractLsb'_eq_self

theorem modulate_128_default (texel : Pixel) :
    modulate (ditherLut defaultDitherMatrix 2 3) texel 128 128 128 = texel := by
  unfold modulate
  simp only [ditherLut_default_mul_128, pack_channels]

theorem ditherAdmissible_default : DitherAdmissible defaultParams :=
  ⟨BitVec.eq_of_toNat_eq (ditherLut_default 0), BitVec.eq_of_toNat_eq (ditherLut_default 255),
    BitVec.eq_of_toNat_eq (ditherLut_default 494)⟩

/-- The undithered red of R37's first scenario. -/
theorem DitherAdmissible.flatColor_red {p : Params} (h : DitherAdmissible p) :
    flatColor (ditherLut p.ditherMatrix 2 3) false 255 0 0 = 0x001F := by
  obtain ⟨h0, h255, -⟩ := h
  have hr : (255 : Byte).toNat = 255 := rfl
  have hg : (0 : Byte).toNat = 0 := rfl
  unfold flatColor
  rw [hr, hg, h0, h255]
  rfl

/-- The white texel of R37's second scenario: each channel's index is `(31 * 255) >> 4 = 494`. -/
theorem DitherAdmissible.modulate_white {p : Params} (h : DitherAdmissible p) :
    modulate (ditherLut p.ditherMatrix 2 3) 0x7FFF 255 255 255 = 0x7FFF := by
  obtain ⟨-, -, h494⟩ := h
  unfold modulate
  have hr : ((red 0x7FFF).toNat * (255 : Byte).toNat) >>> 4 = 494 := rfl
  have hg : ((green 0x7FFF).toNat * (255 : Byte).toNat) >>> 4 = 494 := rfl
  have hb : ((blue 0x7FFF).toNat * (255 : Byte).toNat) >>> 4 = 494 := rfl
  rw [hr, hg, hb, h494]
  rfl

/-- Settles O39. -/
theorem unditheredModulationBy128IsTheIdentity : Obligations.UnditheredModulationBy128IsTheIdentity := by
  unfold Obligations.UnditheredModulationBy128IsTheIdentity
  exact ⟨fun v _ => ditherLut_default v, modulate_128_default, ditherAdmissible_default,
    fun _ h => ⟨h.flatColor_red, h.modulate_white⟩⟩

/-! ### The line engine's widths (10_state.md R43) -/

/-- Truncation divides magnitudes (00_scope.md R12). -/
theorem abs_tdiv {a b : Int} (hb : 0 < b) : |tdiv a b| = |a| / b := by
  calc |tdiv a b| = ((a.natAbs / b.natAbs : Nat) : Int) := by
        rw [Int.abs_eq_natAbs, tdiv, Int.natAbs_tdiv]; rfl
    _ = |a| / b := by rw [Int.natCast_div, Int.abs_eq_natAbs, Int.natAbs_of_nonneg hb.le]

/-- Dividing away from zero stays at most at an integer bound of the exact quotient. -/
theorem abs_divAway_le {a b m : Int} (hb : 0 < b) (ha : |a| ≤ m * b) : |divAway a b| ≤ m := by
  have key (n : Int) (hn : |n| ≤ |a| + (b - 1)) : |tdiv n b| ≤ m := by
    rw [abs_tdiv hb, ← Int.lt_add_one_iff, Int.ediv_lt_iff_lt_mul hb]
    linarith
  unfold divAway
  split
  · exact key _ (by rw [abs_of_neg ‹a < 0›, abs_of_neg (by omega)]; omega)
  · split
    · exact key _ (by rw [abs_of_pos ‹0 < a›, abs_of_pos (by omega)])
    · exact key _ (by omega)

/-- A position step moves by at most one pixel (42_line.md R203). -/
theorem abs_stepXY_le {d k : Int} (hd : |d| ≤ k) : |stepXY d k| ≤ 2 ^ 32 := by
  unfold stepXY xyFrac
  split
  · rename_i hk
    refine abs_divAway_le hk ?_
    rw [abs_mul, abs_of_pos (by norm_num : (0 : Int) < 2 ^ 32)]
    linarith
  · norm_num

theorem byteInt_range (c : Byte) : 0 ≤ byteInt c ∧ byteInt c ≤ 255 := by
  have := c.isLt
  unfold byteInt
  omega

/-- A colour's whole difference in steps, one step past the end included (42_line.md R204). -/
theorem mul_abs_stepColor_le (shade : Bool) (c0 c1 : Byte) {k i : Int} (hi : 0 ≤ i) (hk : i ≤ k + 1) :
    i * |stepColor shade c0 c1 k| ≤ 2 * (255 * 4096) := by
  unfold stepColor rgbFrac
  split
  · rename_i h
    have hc : |(byteInt c1 - byteInt c0) * 2 ^ 12| ≤ 255 * 4096 := by
      have h0 := byteInt_range c0
      have h1 := byteInt_range c1
      rw [abs_le]
      constructor <;> omega
    rw [abs_tdiv h.2]
    have hq := Int.ediv_mul_le |(byteInt c1 - byteInt c0) * 2 ^ 12| h.2.ne'
    have hn := Int.ediv_nonneg (abs_nonneg ((byteInt c1 - byteInt c0) * 2 ^ 12)) h.2.le
    nlinarith
  · norm_num

theorem xInt_range (p : XY) : -1024 ≤ p.xInt ∧ p.xInt < 1024 :=
  ⟨BitVec.le_toInt p.x, BitVec.toInt_lt⟩

theorem yInt_range (p : XY) : -1024 ≤ p.yInt ∧ p.yInt < 1024 :=
  ⟨BitVec.le_toInt p.y, BitVec.toInt_lt⟩

theorem startX_range (p : XY) : |startX p.xInt| ≤ 2 ^ 43 := by
  have := xInt_range p
  unfold startX xyFrac
  rw [abs_le]
  omega

theorem startY_range (p : XY) (dydk : Int) : |startY p.yInt dydk| ≤ 2 ^ 43 := by
  have := yInt_range p
  unfold startY xyFrac
  rw [abs_le]
  split <;> omega

theorem startColor_range (c : Byte) : |startColor c| ≤ 2 ^ 20 := by
  have := byteInt_range c
  unfold startColor rgbFrac
  rw [abs_le]
  omega

/-- The canonical swap does not change the distances (42_line.md R202). -/
theorem abs_canonical_sub (p0 p1 : LineVertex) :
    |(canonical p0 p1).2.pos.xInt - (canonical p0 p1).1.pos.xInt| = lineDx p0 p1
      ∧ |(canonical p0 p1).2.pos.yInt - (canonical p0 p1).1.pos.yInt| = lineDy p0 p1 := by
  unfold canonical lineDx lineDy
  rw [← Int.abs_eq_natAbs, ← Int.abs_eq_natAbs]
  split
  · exact ⟨abs_sub_comm _ _, abs_sub_comm _ _⟩
  · exact ⟨rfl, rfl⟩

theorem lineK_nonneg (p0 p1 : LineVertex) : 0 ≤ lineK p0 p1 := by
  unfold lineK lineDx
  omega

/-- A line that is not dropped has at most 1024 steps (42_line.md R201). -/
theorem lineK_lt_of_not_tooLong {p0 p1 : LineVertex} (h : lineTooLong p0 p1 = false) : lineK p0 p1 < 1024 := by
  simp only [lineTooLong, Bool.or_eq_false_iff, decide_eq_false_iff_not, not_le,
    maxPrimitiveWidth, maxPrimitiveHeight] at h
  unfold lineK
  omega

/-- A position accumulator after at most 1024 advances. -/
theorem abs_position_lt {start step : Int} {i : Nat} (h0 : |start| ≤ 2 ^ 43) (hs : |step| ≤ 2 ^ 32) (hi : i ≤ 1024) :
    |start + (i : Int) * step| < 2 ^ 63 := by
  have hmul : |(i : Int) * step| ≤ 1024 * 2 ^ 32 := by
    rw [abs_mul, Nat.abs_cast]
    exact mul_le_mul (by exact_mod_cast hi) hs (abs_nonneg _) (by norm_num)
  have hadd := abs_add_le start ((i : Int) * step)
  omega

theorem abs_stepColor_lt (shade : Bool) (c0 c1 : Byte) {k : Int} (hk : 0 ≤ k) :
    |stepColor shade c0 c1 k| < 2 ^ 31 := by
  have hone := mul_abs_stepColor_le shade c0 c1 (k := k) (i := 1) (by omega) (by omega)
  omega

/-- A colour accumulator, one advance past the last step included. -/
theorem abs_color_lt (shade : Bool) (a c0 c1 : Byte) {k : Int} {i : Nat} (hi : (i : Int) ≤ k + 1) :
    |startColor a + (i : Int) * stepColor shade c0 c1 k| < 2 ^ 31 := by
  have hmul := mul_abs_stepColor_le shade c0 c1 (Int.natCast_nonneg i) hi
  have hstart := startColor_range a
  have hadd := abs_add_le (startColor a) ((i : Int) * stepColor shade c0 c1 k)
  rw [abs_mul, Nat.abs_cast] at hadd
  omega

/-- Settles O49, register by register, from the bounds of a step and of a start. -/
theorem lineRegistersNeverWrap : Obligations.LineRegistersNeverWrap := by
  unfold Obligations.LineRegistersNeverWrap
  intro shade p0 p1 i hlong hi
  have hk := lineK_lt_of_not_tooLong hlong
  have hi' : i ≤ 1024 := by omega
  obtain ⟨hdx, hdy⟩ := abs_canonical_sub p0 p1
  have hx := abs_stepXY_le (hdx.trans_le (le_max_left _ (lineDy p0 p1)))
  have hy := abs_stepXY_le (hdy.trans_le (le_max_right (lineDx p0 p1) _))
  have hstep := fun c0 c1 => abs_stepColor_lt shade c0 c1 (lineK_nonneg p0 p1)
  simp only [List.forall_mem_cons, List.not_mem_nil, false_imp_iff, implies_true, and_true]
  exact ⟨⟨hx, hy⟩, ⟨abs_position_lt (startX_range _) hx hi', abs_position_lt (startY_range _ _) hy hi'⟩,
    hstep _ _, hstep _ _, hstep _ _, abs_color_lt shade _ _ _ hi, abs_color_lt shade _ _ _ hi,
    abs_color_lt shade _ _ _ hi⟩

/-! ### What the decoder leaves over and which refusals it can give -/

/-- With the area set, no complete draw is refused for it (30_encoding.md R111 order 5). -/
theorem drawCheck_true_ne_daUnset (badFlags badTmode fieldsOk : Bool) :
    drawCheck true badFlags badTmode fieldsOk ≠ some .daUnset := by
  cases badFlags <;> cases badTmode <;> cases fieldsOk <;> decide

/-- What decoding the `n` words after a draw's header of kind `k` can answer: too few words, or a command of that kind
under R111's draw checks, with fewer words left over. -/
def DrawRecord (daSet : Bool) (k : Kind) (n : Nat) (o : Except RefReason (Instr × List Word)) : Prop :=
  o = .error .len ∨ ∃ badFlags badTmode fieldsOk i rest, i.kind = k ∧ rest.length < n
    ∧ o = checked (drawCheck daSet badFlags badTmode fieldsOk) i rest

section
variable (d : Bool) (h : Word) (ws : List Word)

theorem decodeRect_drawRecord : DrawRecord d .rect ws.length (decodeRect d h ws) := by
  unfold decodeRect
  split
  · exact .inr ⟨_, _, _, _, _, rfl, by simp only [List.length_cons]; omega, rfl⟩
  · exact .inl rfl

theorem decodeLine_drawRecord : DrawRecord d .line ws.length (decodeLine d h ws) := by
  unfold decodeLine
  split
  · exact .inr ⟨_, _, _, _, _, rfl, by simp only [List.length_cons]; omega, rfl⟩
  · exact .inl rfl

theorem decodeTri_drawRecord : DrawRecord d .tri ws.length (decodeTri d h ws) := by
  unfold decodeTri
  split
  · exact .inr ⟨_, _, _, _, _, rfl, by simp only [List.length_cons]; omega, rfl⟩
  · exact .inl rfl

theorem decodeQuad_drawRecord : DrawRecord d .quad ws.length (decodeQuad d h ws) := by
  unfold decodeQuad
  split
  · exact .inr ⟨_, _, _, _, _, rfl, by simp only [List.length_cons]; omega, rfl⟩
  · exact .inl rfl

/-- A SETAREA record is taken with fewer words left over, or refused for its length or its flags. -/
theorem decodeSetarea_cases :
    (∃ i rest, decodeSetarea h ws = .ok (i, rest) ∧ i.kind = .setarea ∧ rest.length < ws.length)
      ∨ ∃ r, decodeSetarea h ws = .error r ∧ r ≠ .daUnset := by
  unfold decodeSetarea
  split
  · split
    · exact .inl ⟨_, _, rfl, rfl, by simp only [List.length_cons]; omega⟩
    · exact .inr ⟨_, rfl, by decide⟩
  · exact .inr ⟨_, rfl, by decide⟩

end

theorem DrawRecord.ok {d : Bool} {k : Kind} {n : Nat} {i : Instr} {more : List Word}
    (hr : DrawRecord d k n (.ok (i, more))) : i.kind = k ∧ more.length < n := by
  obtain he | ⟨badFlags, badTmode, fieldsOk, j, rest, hk, hl, he⟩ := hr
  · cases he
  · unfold checked at he
    split at he
    · cases he
    · cases he
      exact ⟨hk, hl⟩

theorem DrawRecord.ne_daUnset {k : Kind} {n : Nat} {o : Except RefReason (Instr × List Word)}
    (hr : DrawRecord true k n o) : o ≠ .error .daUnset := by
  obtain rfl | ⟨badFlags, badTmode, fieldsOk, j, rest, -, -, rfl⟩ := hr
  · simp
  · have hc := drawCheck_true_ne_daUnset badFlags badTmode fieldsOk
    unfold checked
    split
    · rename_i r hd
      rw [hd] at hc
      simpa using hc
    · simp

/-- A record with a SETAREA header does not depend on `DA.SET`. -/
theorem decodeWith_setarea {d : Bool} {h : Word} {tail : List Word} (hh : headerOk h = true)
    (hk : kindOf h = some .setarea) : decodeWith d (h :: tail) = decodeSetarea h tail := by
  simp only [decodeWith, hh, hk, if_true]

/-- Everything decoding a unit can answer: a refusal for the header, or what the record of the header's kind answers. -/
theorem decodeWith_cases (d : Bool) (ws : List Word) :
    (∃ r, decodeWith d ws = .error r ∧ r ≠ .daUnset)
      ∨ ∃ h tail, ws = h :: tail ∧ headerOk h = true ∧
        (kindOf h = some .setarea ∨ ∃ k, k ≠ .setarea ∧ DrawRecord d k tail.length (decodeWith d ws)) := by
  cases ws with
  | nil => exact .inl ⟨_, rfl, by decide⟩
  | cons h tail =>
    cases hh : headerOk h with
    | false => exact .inl ⟨.hdrRsv, by simp [decodeWith, hh], by decide⟩
    | true =>
      simp only [decodeWith, hh, if_true]
      cases hk : kindOf h with
      | none => exact .inl ⟨_, rfl, by decide⟩
      | some k =>
        refine .inr ⟨h, tail, rfl, hh, ?_⟩
        cases k with
        | rect => exact .inr ⟨.rect, by decide, decodeRect_drawRecord d h tail⟩
        | line => exact .inr ⟨.line, by decide, decodeLine_drawRecord d h tail⟩
        | tri => exact .inr ⟨.tri, by decide, decodeTri_drawRecord d h tail⟩
        | quad => exact .inr ⟨.quad, by decide, decodeQuad_drawRecord d h tail⟩
        | setarea => exact .inl hk

/-- A decoded record leaves fewer words than it was given (30_encoding.md R116). -/
theorem length_lt_of_decodeWith {d : Bool} {ws more : List Word} {i : Instr}
    (hd : decodeWith d ws = .ok (i, more)) : more.length < ws.length := by
  obtain ⟨r, he, -⟩ | ⟨h, tail, rfl, hh, hk | ⟨k, -, hr⟩⟩ := decodeWith_cases d ws
  · cases hd.symm.trans he
  · rw [decodeWith_setarea hh hk] at hd
    obtain ⟨j, rest, hj, -, hl⟩ | ⟨r, he, -⟩ := decodeSetarea_cases h tail
    · cases hd.symm.trans hj
      exact Nat.lt_succ_of_lt hl
    · cases hd.symm.trans he
  · rw [hd] at hr
    exact Nat.lt_succ_of_lt hr.ok.2

/-- With `DA.SET = 1` no record is refused for an unset area. -/
theorem decodeWith_true_ne_daUnset (ws : List Word) : decodeWith true ws ≠ .error .daUnset := by
  obtain ⟨r, he, hr⟩ | ⟨h, tail, rfl, hh, hk | ⟨k, -, hr⟩⟩ := decodeWith_cases true ws
  · simpa [he] using hr
  · rw [decodeWith_setarea hh hk]
    obtain ⟨j, rest, hj, -, -⟩ | ⟨r, he, hr⟩ := decodeSetarea_cases h tail
    · simp [hj]
    · simpa [he] using hr
  · exact hr.ne_daUnset

/-- A record that decodes to a SETAREA does so whether or not `DA.SET = 1`. -/
theorem decodeWith_of_decode_setarea {d : Bool} {ws more : List Word} {i : Instr} (hd : decode ws = .ok (i, more))
    (hi : i.kind = .setarea) : decodeWith d ws = .ok (i, more) := by
  unfold decode at hd
  obtain ⟨r, he, -⟩ | ⟨h, tail, rfl, hh, hk | ⟨k, hne, hr⟩⟩ := decodeWith_cases true ws
  · cases hd.symm.trans he
  · rwa [decodeWith_setarea hh hk, ← decodeWith_setarea (d := true) hh hk]
  · rw [hd] at hr
    exact absurd (hr.ok.1.symm.trans hi) hne

/-! ### Launched runs (70_reset_and_hazards.md R338 to R340) -/

/-- An idle engine takes whatever the HOST offers next, or stays as it is. -/
theorem step_idle_next {s : State} (hs : s.seq = .idle) : ∃ t, step s = .next t := by
  unfold step hostStep
  rw [hs]
  match s.host with
  | [] => exact ⟨_, rfl⟩
  | .reset :: rest => exact ⟨_, rfl⟩
  | .writeVram x y v :: rest => exact ⟨_, rfl⟩
  | .submit ws :: rest =>
    simp only [submitRecord]
    cases decodeWith s.da.set ws with
    | error r => exact ⟨_, rfl⟩
    | ok p =>
      obtain ⟨u, hu⟩ := exec_idle_next p.1 (s := s.withHost (pending p.2 rest)) hs
      exact ⟨u.advance, by simp only [hu, advanceOutcome]⟩

/-- A command that needs no area or has one leaves it set. -/
theorem exec_da_set {i : Instr} {s t : State} (h : exec i s = .next t) (ha : s.da.set = true ∨ i.kind = .setarea) :
    t.da.set = true := by
  rcases draw_or_setarea i with ⟨c, hc⟩ | ⟨l, u, r, b, rfl⟩
  · rw [exec_draw_da hc h]
    exact ha.resolve_right (kind_ne_setarea_iff.mpr ⟨c, hc⟩)
  · rw [exec_setarea_next h]

/-- The HOST's actions left to do, each record's words counted: what every step of a run makes smaller. -/
def hostWork (h : List HostAction) : Nat := (h.map fun a => (a.words.getD []).length + 1).sum

@[simp] theorem hostWork_cons (a : HostAction) (h : List HostAction) :
    hostWork (a :: h) = (a.words.getD []).length + 1 + hostWork h := by simp [hostWork]

/-- A record taken off its unit leaves less to do. -/
theorem hostWork_pending_lt {ws more : List Word} (h : more.length < ws.length) (rest : List HostAction) :
    hostWork (pending more rest) < hostWork (.submit ws :: rest) := by
  unfold pending
  split <;> simp only [hostWork_cons, HostAction.words, Option.getD_some] <;> omega

theorem runActions_cons {a : HostAction} {h : List HostAction} :
    runActions (a :: h) = true ↔ a ≠ .reset ∧ runActions h = true := by
  simp [runActions, @eq_comm _ a]

theorem runActions_pending (more : List Word) {rest : List HostAction} (h : runActions rest = true) :
    runActions (pending more rest) = true := by
  unfold pending
  split
  · exact h
  · exact runActions_cons.mpr ⟨by simp, h⟩

theorem decode_of_startsWithSetarea {ws : List Word} {P : List (List Word)}
    (h : startsWithSetarea (ws :: P) = true) : ∃ i more, decode ws = .ok (i, more) ∧ i.kind = .setarea := by
  simp only [startsWithSetarea] at h
  split at h
  · rename_i i more hd
    exact ⟨i, more, hd, by simpa using h⟩
  · cases h

/-- `LP_AREA` of what is left of a run: the area is set, or the next record sets it (R340). -/
def State.AreaComing (s : State) : Prop := s.da.set = true ∨ startsWithSetarea (submissions s.host) = true

/-- The engine was not refused for an unset area. -/
def State.NotDaUnset (s : State) : Prop := ∀ pos, s.refused ≠ some ⟨.daUnset, pos⟩

theorem State.NotDaUnset.of_none {s : State} (h : s.refused = none) : s.NotDaUnset := fun _ => by simp [h]

/-- What every step of a launched run keeps. -/
structure RunReady (s : State) : Prop where
  inv        : s.Inv
  actions    : runActions s.host = true
  area       : s.AreaComing
  notDaUnset : s.NotDaUnset

/-- A command that needs no area or has one is not refused for an unset area. -/
theorem exec_notDaUnset {i : Instr} {s t : State} (h : exec i s = .next t) (hn : s.NotDaUnset)
    (ha : s.da.set = true ∨ i.kind = .setarea) : t.NotDaUnset := by
  obtain ⟨-, ⟨l, u, r, b, -, rfl⟩ | ⟨c, hc, hdraw⟩⟩ := exec_next_cases h
  · exact hn
  · have hset := ha.resolve_right (kind_ne_setarea_iff.mpr ⟨c, hc⟩)
    rcases hdraw with ⟨hd, -⟩ | ⟨-, -, rfl⟩ | ⟨-, -, -, rfl⟩ | ⟨-, -, pre, g, post, -, -, -, rfl⟩
    · simp [hset] at hd
    · simp [State.NotDaUnset]
    · exact hn
    · exact hn

/-- What a record handed over can do in a launched run: be refused for another reason than the area, with the area set, or
run with the area set or as the SETAREA that sets it. -/
theorem decodeWith_of_areaComing {s : State} {ws : List Word} {rest : List HostAction} (ha : s.AreaComing)
    (hh : s.host = .submit ws :: rest) :
    (∀ r, decodeWith s.da.set ws = .error r → s.da.set = true ∧ r ≠ .daUnset)
      ∧ ∀ i more, decodeWith s.da.set ws = .ok (i, more) → s.da.set = true ∨ i.kind = .setarea := by
  rcases ha with hset | hsetarea
  · rw [hset]
    refine ⟨fun r hr => ⟨rfl, ?_⟩, fun _ _ _ => .inl rfl⟩
    rintro rfl
    exact decodeWith_true_ne_daUnset ws hr
  · rw [hh, submissions_submit] at hsetarea
    obtain ⟨j, rest', hj, hk⟩ := decode_of_startsWithSetarea hsetarea
    rw [decodeWith_of_decode_setarea hj hk]
    refine ⟨fun r hr => (by cases hr), fun i more he => .inr ?_⟩
    cases he
    exact hk

/-- A run that has not ended takes a step, keeps `RunReady` and has less left to do. -/
theorem RunReady.step {s : State} (hr : RunReady s) (he : s.ended = false) :
    ∃ t, step s = .next t ∧ RunReady t ∧ hostWork t.host < hostWork s.host := by
  have hended : ¬(s.Final ∨ s.seq = .halted) := by rw [← ended_iff, he]; decide
  have hs := hr.inv.idle_or_halted.resolve_right fun hc => hended (.inr hc)
  obtain ⟨t, ht⟩ := step_idle_next hs
  obtain ⟨hinv, -⟩ := everyStepKeepsTheInvariant s t hr.inv ht
  have hact := hr.actions
  refine ⟨t, ht, ?_⟩
  rcases step_next_cases ht with
    ⟨-, rest, hh, rfl⟩ | ⟨-, x, y, v, rest, hh, rfl⟩ | ⟨-, hh, rfl⟩ | ⟨-, ws, rest, hh, hsub⟩
  · rw [hh, runActions_cons] at hact
    exact absurd rfl hact.1
  · rw [hh, runActions_cons] at hact
    have harea := hr.area
    rw [State.AreaComing, hh] at harea
    exact ⟨⟨hinv, hact.2, harea, hr.notDaUnset⟩, by simp [hh]⟩
  · exact absurd (.inl ⟨hs, by simp [hh]⟩) hended
  · obtain ⟨herr, hok⟩ := decodeWith_of_areaComing hr.area hh
    rw [hh, runActions_cons] at hact
    rcases hsub with ⟨r, hdec, rfl⟩ | ⟨i, more, u, hdec, hu, rfl⟩
    · obtain ⟨hset, hne⟩ := herr r hdec
      exact ⟨⟨hinv, hact.2, .inl hset, by simp [State.NotDaUnset, hne]⟩, by simp [hh]⟩
    · have hset := hok i more hdec
      obtain ⟨-, hhost, -⟩ := exec_frame hu
      rw [State.advance_host, hhost, State.withHost_host, hh]
      have hnot : u.NotDaUnset := exec_notDaUnset hu hr.notDaUnset hset
      have harea : u.da.set = true := exec_da_set hu hset
      refine ⟨⟨hinv, ?_, .inl harea, hnot⟩, hostWork_pending_lt (length_lt_of_decodeWith hdec) rest⟩
      rw [State.advance_host, hhost]
      exact runActions_pending more hact.2

/-- A run ends after at most as many steps as there is work, in a state that the steps kept `RunReady`. -/
theorem RunReady.runEnd {n : Nat} {s : State} (hr : RunReady s) (hn : hostWork s.host ≤ n) :
    ∃ t, runEnd n s = some t ∧ RunReady t := by
  cases he : s.ended with
  | true => exact ⟨s, runEnd_of_ended n he, hr⟩
  | false =>
    obtain ⟨t, ht, hrt, hlt⟩ := hr.step he
    cases n with
    | zero => omega
    | succ n =>
      rw [runEnd_step n he ht]
      exact hrt.runEnd (by omega)
termination_by n

/-- A run that ends at `t` has the observation of `t` if `t` is final, and no other. -/
theorem observes_iff_of_runEnd {n : Nat} {s t : State} {o : Memory × DrawArea} (h : runEnd n s = some t) :
    Observes s o ↔ t.Final ∧ o = (t.mem, t.da) := by
  constructor
  · rintro ⟨u, ⟨m, hm, hfinal⟩, rfl⟩
    obtain rfl := runEnd_unique h hm
    exact ⟨hfinal, rfl⟩
  · rintro ⟨hfinal, rfl⟩
    exact ⟨t, ⟨n, h, hfinal⟩, rfl⟩

/-- The launch premises start a run. -/
theorem Launched.runReady {P : List (List Word)} {v : Memory} {area : DrawArea} {s : State} (h : Launched P v area s)
    (hv : v.wf = true) : RunReady s where
  inv := h.clean.inv (h.vram ▸ hv)
  actions := h.actions
  area := h.area.imp (fun ha => ha.2) (fun hP => h.records ▸ hP)
  notDaUnset := by
    obtain ⟨-, -, -, hrefused⟩ := h.clean
    exact .of_none hrefused

/-- Settles O12: the steps shrink the HOST's work and keep `RunReady`, and the end decides the observation. -/
theorem everyLaunchedRunEnds : Obligations.EveryLaunchedRunEnds := by
  unfold Obligations.EveryLaunchedRunEnds
  intro P v area s hv hl
  obtain ⟨t, ht, hr⟩ := (hl.runReady hv).runEnd le_rfl
  refine ⟨_, t, ht, hr.inv, hr.notDaUnset, ?_⟩
  rcases ended_iff.mp (ended_of_runEnd ht) with hfinal | hhalted
  · obtain ⟨-, -, hfault, hrefused⟩ := hr.inv.clean hfinal.1
    exact .inl ⟨hfinal, hfault, hrefused, fun o => (observes_iff_of_runEnd ht).trans (and_iff_right hfinal)⟩
  · refine .inr ⟨hhalted, hr.inv.marked hhalted, fun o ho => ?_⟩
    have hidle := ((observes_iff_of_runEnd ht).mp ho).1.1
    simp [hhalted] at hidle

end Sys2Proof.Machine

/-!
SUPPORT. The proofs of the family "memory" (20_memory.md): the HOST's word write, the command a step runs, the mask test
through a whole command, texture reads, and the rows of a rectangle.
-/

namespace Sys2Proof.Machine

open Sys2Proof.Config

/-! ### The HOST's word write (20_memory.md R70, R74) -/

/-- The low byte of a written word stands at the word's address. -/
theorem Memory.read_vwrite_low {m : Memory} {x y : Nat} {v : Pixel} (h : m.wf = true) :
    (m.vwrite x y v).read (vramAddr x y) = v.extractLsb' 0 8 := by
  unfold Memory.vwrite Memory.write16
  rw [Memory.read_write_ne (by omega), Memory.read_write_same h]

/-- The high byte of a written word stands at the next address. -/
theorem Memory.read_vwrite_high {m : Memory} {x y : Nat} {v : Pixel} (h : m.wf = true) (hx : x < vramWidth)
    (hy : y < vramHeight) : (m.vwrite x y v).read (vramAddr x y + 1) = v.extractLsb' 8 8 := by
  have ha := vramAddr_lt hx hy
  unfold Memory.vwrite Memory.write16
  rw [Memory.read_write_same (Memory.wf_write h (by omega))]

/-- A VRAM write of the HOST is taken while no command runs (70_reset_and_hazards.md R333). -/
theorem step_writeVram {s : State} {x : BitVec 10} {y : BitVec 9} {v : Pixel} {rest : List HostAction}
    (hs : s.seq = .idle ∨ s.seq = .halted) (hh : s.host = .writeVram x y v :: rest) :
    step s = .next ((s.withHost rest).hostWrite x y v) := by
  unfold step hostStep
  rcases hs with hs | hs <;> rw [hs, hh]

/-- Settles O5. -/
theorem hostWriteChangesOneWord : Obligations.HostWriteChangesOneWord := by
  unfold Obligations.HostWriteChangesOneWord
  intro s x y v rest hm hs hh
  refine ⟨_, step_writeVram hs hh, rfl, ?_, ?_, ?_, fun a ha => ?_⟩
  · exact Memory.vread_vwrite_same hm x.isLt y.isLt
  · exact Memory.read_vwrite_low hm
  · exact Memory.read_vwrite_high hm x.isLt y.isLt
  · obtain ⟨hlow, hhigh⟩ := not_or.mp ha
    exact Memory.read_vwrite_ne hlow hhigh

/-! ### The command a step runs (20_memory.md R87) -/

/-- An idle engine is handed the first record of the HOST's unit. -/
theorem step_submit {s : State} {ws : List Word} {rest : List HostAction} (hs : s.seq = .idle)
    (hh : s.host = .submit ws :: rest) : step s = submitRecord ws rest s := by
  unfold step hostStep
  rw [hs, hh]

theorem submitRecord_of_ok {s : State} {ws more : List Word} {i : Instr} (rest : List HostAction)
    (h : decodeWith s.da.set ws = .ok (i, more)) :
    submitRecord ws rest s = advanceOutcome (exec i (s.withHost (pending more rest))) := by
  unfold submitRecord
  rw [h]

/-- Settles O3: with the area set the engine decodes as the record alone does, and a SETAREA decodes alike either way. -/
theorem stepRunsTheDecodedCommand : Obligations.StepRunsTheDecodedCommand := by
  unfold Obligations.StepRunsTheDecodedCommand
  intro s ws more rest i hs hh hd ha
  have hdec : decodeWith s.da.set ws = .ok (i, more) := by
    rcases ha with hset | hsetarea
    · rw [hset]
      exact hd
    · exact decodeWith_of_decode_setarea hd hsetarea
  rw [step_submit hs hh, submitRecord_of_ok rest hdec]

/-! ### The mask test through a whole command (20_memory.md R79, 40_pixel_shader.md R157) -/

/-- The shader drops a pixel whose word has a bit of `MASK_AND` set. -/
theorem pixelWord_of_masked {sh : Shader} {m : Memory} {f : Frag}
    (h : m.vread f.x.toNat f.y.toNat &&& sh.cfg.maskAnd ≠ 0) : pixelWord sh m f = none := by
  rcases pixelWord_cases sh m f with ⟨-, hp⟩ | ⟨fg, -, ⟨-, hp⟩ | ⟨h0, -⟩⟩
  · exact hp
  · exact hp
  · exact absurd h0 h

/-- A masked word survives the shader's call, at its own pixel and at any other. -/
theorem shadeMem_vread_masked {sh : Shader} {m : Memory} {f : Frag} {x y : Nat} (hf : inVram f.x f.y = true)
    (hx : x < vramWidth) (h : m.vread x y &&& sh.cfg.maskAnd ≠ 0) : (shadeMem sh m f).vread x y = m.vread x y := by
  by_cases hxy : f.x = (x : Int) ∧ f.y = (y : Int)
  · have hnone : pixelWord sh m f = none := pixelWord_of_masked (by rwa [hxy.1, hxy.2])
    unfold shadeMem
    rw [hnone]
  · exact shadeMem_vread_ne hf hx hxy

/-- A masked word survives a whole list of pixels, since it stays masked. -/
theorem shadeAll_vread_masked {sh : Shader} {m : Memory} {fs : List Frag} {x y : Nat} (hx : x < vramWidth)
    (hf : ∀ f ∈ fs, inVram f.x f.y = true) (h : m.vread x y &&& sh.cfg.maskAnd ≠ 0) :
    (shadeAll sh m fs).vread x y = m.vread x y := by
  induction fs generalizing m with
  | nil => rfl
  | cons f fs ih =>
    rw [List.forall_mem_cons] at hf
    have hfirst := shadeMem_vread_masked hf.1 hx h
    rw [shadeAll_cons, ih hf.2 (by rwa [hfirst]), hfirst]

/-- VRAM after a draw is VRAM after a list of pixels inside VRAM: none for a refusal, those before the fault for a
faulting draw, all of them for one that completes. -/
theorem exec_draw_mem {i : Instr} {c : DrawCfg} {s t : State} (hc : configOf i = some c) (h : exec i s = .next t) :
    ∃ fs : List Frag, (∀ f ∈ fs, inVram f.x f.y = true) ∧ t.mem = shadeAll (shaderOf i s.params c) s.mem fs := by
  rw [exec_draw s hc] at h
  obtain ⟨-, ⟨-, rfl⟩ | ⟨-, -, rfl⟩ | ⟨-, -, hin, rfl⟩ | ⟨-, -, pre, g, post, -, hin, -, rfl⟩⟩ := execDraw_cases h
  · exact ⟨[], by simp, rfl⟩
  · exact ⟨[], by simp, rfl⟩
  · exact ⟨_, hin, rfl⟩
  · exact ⟨pre, hin, rfl⟩

/-- Settles O25, whichever end the draw comes to. -/
theorem maskedPixelsAreUnchanged : Obligations.MaskedPixelsAreUnchanged := by
  unfold Obligations.MaskedPixelsAreUnchanged
  intro i c s t x y hc h hx _ hmask
  obtain ⟨fs, hin, hmem⟩ := exec_draw_mem hc h
  rw [State.vram_eq, hmem]
  exact shadeAll_vread_masked hx hin hmask

/-! ### Texture reads (20_memory.md R71, R75, 40_pixel_shader.md R141 to R144) -/

/-- Settles O41: a field of a word is its shift, cut to the field's width. -/
theorem paletteIndicesAreLeastSignificantFirst : Obligations.PaletteIndicesAreLeastSignificantFirst := by
  unfold Obligations.PaletteIndicesAreLeastSignificantFirst
  exact fun w u => ⟨(BitVec.extractLsb'_toNat _ 4 w).symm, (BitVec.extractLsb'_toNat _ 8 w).symm⟩

theorem windowU_toNat (c : DrawCfg) (u : Byte) : (windowU c u).toNat = ruleTU c u := by
  simp [windowU, ruleTU]

theorem windowV_toNat (c : DrawCfg) (v : Byte) : (windowV c v).toNat = ruleTV c v := by
  simp [windowV, ruleTV]

theorem pageCoord_lt (c : DrawCfg) (ox : Nat) (v : Byte) : (pageCoord c ox v).1 < 1024 ∧ (pageCoord c ox v).2 < 512 :=
  ⟨Nat.mod_lt _ (by decide), Nat.mod_lt _ (by decide)⟩

theorem clutCoord_lt (c : DrawCfg) (idx : Nat) : (clutCoord c idx).1 < 1024 ∧ (clutCoord c idx).2 < 512 :=
  ⟨Nat.mod_lt _ (by decide), c.clutY.isLt⟩

/-- Every word a fetch reads lies in VRAM. -/
theorem texelReads_lt (c : DrawCfg) (m : Memory) (u v : Byte) :
    ∀ p ∈ texelReads c m u v, p.1 < 1024 ∧ p.2 < 512 := by
  unfold texelReads
  split
  · simp [pageCoord_lt, clutCoord_lt]
  · simp [pageCoord_lt, clutCoord_lt]
  · simp [pageCoord_lt]
  · simp

/-- The texel is the last word a fetch reads. -/
theorem fetchTexel_of_getLast? {c : DrawCfg} {m : Memory} {u v : Byte} {p : Nat × Nat}
    (h : (texelReads c m u v).getLast? = some p) : fetchTexel c m u v = m.vread p.1 p.2 := by
  unfold texelReads at h
  unfold fetchTexel
  cases hmode : c.tmode <;> simp only [hmode] at h
  case reserved => cases h
  all_goals
    obtain rfl := Option.some.inj h
    rfl

/-- A mode that is not reserved reads a word. -/
theorem texelReads_ne_nil {c : DrawCfg} (h : c.tmode ≠ .reserved) (m : Memory) (u v : Byte) :
    texelReads c m u v ≠ [] := by
  unfold texelReads
  split
  case h_4 hr => exact absurd hr h
  all_goals simp

/-- At the windowed coordinate, the word at the rules' column is the rules' page word. -/
theorem pageCoord_window {c : DrawCfg} {u : Byte} {ox : Nat} (h : ox = ruleColumn c u) (v : Byte) :
    pageCoord c ox (windowV c v) = rulePage c u v := by
  rw [pageCoord, rulePage, h, windowV_toNat]

/-- In the 4-bit mode a fetch reads the page word and the palette entry of the rules (40_pixel_shader.md R142). -/
theorem texelReads_palette4 {c : DrawCfg} (h : c.tmode = .palette4) (m : Memory) (u v : Byte) :
    texelReads c m (windowU c u) (windowV c v) = [rulePage c u v, ruleEntry c m u v] := by
  have hcol : (windowU c u).toNat / 4 = ruleColumn c u := by
    rw [ruleColumn, if_pos h, windowU_toNat, Nat.shiftRight_eq_div_pow]
  have hindex : index4 (m.vread (rulePage c u v).1 (rulePage c u v).2) (windowU c u) = ruleIndex c m u v := by
    rw [index4, ruleIndex, if_pos h, windowU_toNat]
    exact (Nat.and_two_pow_sub_one_eq_mod _ 4).symm
  simp only [texelReads, h, pageCoord_window hcol, hindex]
  rfl

/-- In the 8-bit mode a fetch reads the page word and the palette entry of the rules (40_pixel_shader.md R143). -/
theorem texelReads_palette8 {c : DrawCfg} (h : c.tmode = .palette8) (m : Memory) (u v : Byte) :
    texelReads c m (windowU c u) (windowV c v) = [rulePage c u v, ruleEntry c m u v] := by
  have h4 : c.tmode ≠ .palette4 := by rw [h]; decide
  have hcol : (windowU c u).toNat / 2 = ruleColumn c u := by
    rw [ruleColumn, if_neg h4, if_pos h, windowU_toNat, Nat.shiftRight_eq_div_pow]
  have hindex : index8 (m.vread (rulePage c u v).1 (rulePage c u v).2) (windowU c u) = ruleIndex c m u v := by
    rw [index8, ruleIndex, if_neg h4, windowU_toNat]
    exact (Nat.and_two_pow_sub_one_eq_mod _ 8).symm
  simp only [texelReads, h, pageCoord_window hcol, hindex]
  rfl

/-- In the direct mode a fetch reads the page word alone (40_pixel_shader.md R144). -/
theorem texelReads_direct15 {c : DrawCfg} (h : c.tmode = .direct15) (m : Memory) (u v : Byte) :
    texelReads c m (windowU c u) (windowV c v) = [rulePage c u v] := by
  have hcol : (windowU c u).toNat = ruleColumn c u := by simp [ruleColumn, h, windowU_toNat]
  simp only [texelReads, h, pageCoord_window hcol]

/-- Settles O40, mode by mode; the texel is the last word of the reads. -/
theorem textureReadsWrapIntoVram : Obligations.TextureReadsWrapIntoVram := by
  unfold Obligations.TextureReadsWrapIntoVram
  intro c m u v
  refine ⟨texelReads_lt c m u v, fun p => fetchTexel_of_getLast?, fun h => texelReads_ne_nil h m u v, fun h => ?_,
    fun h => ?_⟩
  · have hreads := h.elim (fun h => texelReads_palette4 h m u v) fun h => texelReads_palette8 h m u v
    exact ⟨hreads, fetchTexel_of_getLast? (by rw [hreads]; rfl)⟩
  · have hreads := texelReads_direct15 h m u v
    exact ⟨hreads, fetchTexel_of_getLast? (by rw [hreads]; rfl)⟩

/-! ### The rows of a rectangle (20_memory.md R80, 41_rectangle.md R183, R185) -/

/-- A shader call without the position of the iteration that makes it, which the shader does not read. -/
def Frag.unplaced (f : Frag) : Frag := { f with pos := .start }

/-- VRAM after a list of pixels does not depend on the positions of their iterations. -/
theorem shadeAll_unplaced (sh : Shader) (m : Memory) (fs : List Frag) :
    shadeAll sh m (fs.map Frag.unplaced) = shadeAll sh m fs := List.foldl_map

theorem forall_inVram_unplaced {fs : List Frag} :
    (∀ f ∈ fs.map Frag.unplaced, inVram f.x f.y = true) ↔ ∀ f ∈ fs, inVram f.x f.y = true := List.forall_mem_map

/-- The pixels of a rectangle lie where it covers. -/
theorem rectCovers_of_mem_rectFrags {da : DrawArea} {c : DrawCfg} {o : XY} {sz : Size} {col : Color} {uv : UV}
    {g : Frag} (h : g ∈ rectFrags da c o sz col uv) : rectCovers da c o sz g.x g.y = true := by
  obtain ⟨oy, ox, hy, hx, hrow, hilace, hcol, rfl⟩ := mem_rectFrags_iff.mp h
  simp [rectCovers, hrow, hilace, hcol, hy, hx]

/-- `(v0 + oy) & 0xFF` from a start already `n` rows lower, modulo 256 (41_rectangle.md R183). -/
theorem wrap8_row_lower {v v' : Byte} {n : Nat} (h : v'.toNat = (v.toNat + n) % 256) (oy : Nat) :
    wrap8 (byteInt v + ((n + oy : Nat) : Int)) = wrap8 (byteInt v' + (oy : Int)) := by
  apply BitVec.eq_of_toNat_eq
  unfold wrap8 byteInt
  rw [BitVec.toNat_ofInt, BitVec.toNat_ofInt]
  omega

/-- Row `n + oy` of a rectangle is row `oy` of one whose origin and texture row are `n` lower. -/
theorem rectRow_lower {da : DrawArea} {c : DrawCfg} {o o' : XY} {sz sz' : Size} {col : Color} {uv uv' : UV} {n : Nat}
    (hw : sz'.w = sz.w) (hx : o'.xInt = o.xInt) (hy : o'.yInt = o.yInt + (n : Int)) (hu : uv'.u = uv.u)
    (hv : uv'.v.toNat = (uv.v.toNat + n) % 256) (oy : Nat) :
    (rectRow da c o sz col uv (n + oy)).map Frag.unplaced = (rectRow da c o' sz' col uv' oy).map Frag.unplaced := by
  have hrow : o.yInt + ((n + oy : Nat) : Int) = o'.yInt + (oy : Int) := by omega
  unfold rectRow
  rw [hrow, hw, hx, hu, wrap8_row_lower hv]
  dsimp only
  split
  · rfl
  · simp only [List.map_flatMap, apply_ite (List.map Frag.unplaced)]
    rfl

/-- A rectangle's pixels are its first rows' and then, but for the positions, those of the rectangle of the rest. -/
theorem rectFrags_rows {da : DrawArea} {c : DrawCfg} {o o' : XY} {w : BitVec 10} {h k hk : BitVec 9} {col : Color}
    {uv uv' : UV} (hsum : hk.toNat = h.toNat + k.toNat) (hx : o'.xInt = o.xInt)
    (hy : o'.yInt = o.yInt + (h.toNat : Int)) (hu : uv'.u = uv.u) (hv : uv'.v.toNat = (uv.v.toNat + h.toNat) % 256) :
    (rectFrags da c o ⟨w, hk⟩ col uv).map Frag.unplaced =
      (rectFrags da c o ⟨w, h⟩ col uv ++ rectFrags da c o' ⟨w, k⟩ col uv').map Frag.unplaced := by
  have hlower :=
    rectRow_lower (da := da) (c := c) (sz := ⟨w, hk⟩) (sz' := ⟨w, k⟩) (col := col) rfl hx hy hu hv
  simp only [rectFrags, hsum, List.range_add, List.flatMap_append, List.map_append, List.flatMap_map, List.map_flatMap,
    hlower]
  rfl

/-- A rectangle whose pixels all lie in VRAM completes. -/
theorem exec_rect_completes {f : RectFlags} {c : DrawCfg} {o : XY} {sz : Size} {col : Color} {uv : UV} {s : State}
    (hr : s.ready = true) (hw : WellFormed (.rect f c o sz col uv) = true)
    (hin : ∀ g ∈ rectFrags s.da c o sz col uv, inVram g.x g.y = true) :
    exec (.rect f c o sz col uv) s =
      .next { s with mem := shadeAll (rectShader f c s) s.mem (rectFrags s.da c o sz col uv), cl := none,
                     seq := .idle } := by
  simp only [State.ready, Bool.and_eq_true, decide_eq_true_eq] at hr
  exact execDraw_completes hr.1 hr.2 hw hin

/-- Settles O44: the pixels of the whole are those of the two parts, one list after the other. -/
theorem rectIsItsRowsInOrder : Obligations.RectIsItsRowsInOrder := by
  unfold Obligations.RectIsItsRowsInOrder
  intro f c o o' w h k hk col uv uv' s hr hw hcov hsum hx hy hu hv
  have hrows := rectFrags_rows (da := s.da) (c := c) (w := w) (col := col) hsum hx hy hu hv
  have hin : ∀ g ∈ rectFrags s.da c o ⟨w, hk⟩ col uv, inVram g.x g.y = true :=
    fun g hg => hcov _ _ (rectCovers_of_mem_rectFrags hg)
  have hparts := hin
  rw [← forall_inVram_unplaced, hrows, forall_inVram_unplaced, List.forall_mem_append] at hparts
  obtain ⟨hfirst, hrest⟩ := hparts
  have hready : s.da.set = true := (Bool.and_eq_true_iff.mp hr).2
  refine ⟨_, _, exec_rect_completes hr hw hfirst, exec_rect_completes (by simp [State.ready, hready]) hw hrest, ?_⟩
  rw [exec_rect_completes hr hw hin, ← shadeAll_unplaced, hrows, shadeAll_unplaced, shadeAll_append]
  rfl

end Sys2Proof.Machine

/-!
SUPPORT. The proofs of the family "encoding" (30_encoding.md): the fields of a word, decoding against encoding, the
refusal table, the opcode map, the assembler, the number of pixels of a command and the fields it ignores.
-/

namespace Sys2Proof.Machine

open Sys2Proof.Config

/-! ### The fields of a word (30_encoding.md R100, 00_scope.md R10) -/

/-- A field is an append exactly when its upper and its lower part are the appended values. -/
theorem field_eq_append {w : Word} {lo v n : Nat} {x : BitVec v} {y : BitVec n} :
    field w lo (v + n) = x ++ y ↔ field w (lo + n) v = x ∧ field w lo n = y := by
  have happ : field w (lo + n) v ++ field w lo n = field w lo (v + n) :=
    BitVec.extractLsb'_append_extractLsb'_eq_extractLsb' rfl
  constructor
  · intro h
    rw [← happ] at h
    have hx := congrArg (BitVec.extractLsb' n v) h
    have hy := congrArg (BitVec.extractLsb' 0 n) h
    rw [BitVec.extractLsb'_append_eq_left, BitVec.extractLsb'_append_eq_left] at hx
    rw [BitVec.extractLsb'_append_eq_right, BitVec.extractLsb'_append_eq_right] at hy
    exact ⟨hx, hy⟩
  · rintro ⟨rfl, rfl⟩
    exact happ.symm

/-- A word is its one field of 32 bits. -/
theorem field_all (w : Word) : field w 0 32 = w := BitVec.extractLsb'_eq_self

/-- A flag is its field of one bit. -/
theorem field_one_eq_ofBool {w : Word} {i : Nat} {b : Bool} : field w i 1 = BitVec.ofBool b ↔ flag w i = b := by
  rw [flag, BitVec.getLsbD_eq_extractLsb', field]
  generalize BitVec.extractLsb' i 1 w = x
  revert x b
  decide

/-- A mask that is all ones in a field keeps it. -/
theorem field_and_of_ones {w m : Word} {lo n : Nat} (h : field m lo n = BitVec.allOnes n) :
    field (w &&& m) lo n = field w lo n := by
  rw [field, BitVec.extractLsb'_and, ← field, ← field, h, BitVec.and_allOnes]

/-- A mask that is 0 in a field clears it. -/
theorem field_and_of_zero {w m : Word} {lo n : Nat} (h : field m lo n = 0#n) : field (w &&& m) lo n = 0#n := by
  rw [field, BitVec.extractLsb'_and, ← field, ← field, h, BitVec.and_zero]

/-! The reserved fields of the words (30_encoding.md R103 to R107). -/

theorem clearUnder_pageRsv_iff {w : Word} : clearUnder pageRsv w = true ↔ field w 25 7 = 0 ∧ field w 10 6 = 0 := by
  rw [clearUnder, beq_iff_eq, ← field_all (w &&& pageRsv)]
  change field _ 0 (7 + 9 + 6 + 10) = 0#7 ++ 0#9 ++ 0#6 ++ 0#10 ↔ _
  rw [field_eq_append, field_eq_append, field_eq_append, field_and_of_ones rfl, field_and_of_zero rfl,
    field_and_of_ones rfl, field_and_of_zero rfl]
  simp

theorem clearUnder_xyRsv_iff {w : Word} : clearUnder xyRsv w = true ↔ field w 27 5 = 0 ∧ field w 11 5 = 0 := by
  rw [clearUnder, beq_iff_eq, ← field_all (w &&& xyRsv)]
  change field _ 0 (5 + 11 + 5 + 11) = 0#5 ++ 0#11 ++ 0#5 ++ 0#11 ↔ _
  rw [field_eq_append, field_eq_append, field_eq_append, field_and_of_ones rfl, field_and_of_zero rfl,
    field_and_of_ones rfl, field_and_of_zero rfl]
  simp

theorem clearUnder_colorRsv_iff {w : Word} : clearUnder colorRsv w = true ↔ field w 24 8 = 0 := by
  rw [clearUnder, beq_iff_eq, ← field_all (w &&& colorRsv)]
  change field _ 0 (8 + 24) = 0#8 ++ 0#24 ↔ _
  rw [field_eq_append, field_and_of_ones rfl, field_and_of_zero rfl]
  simp

theorem clearUnder_uvRsv_iff {w : Word} : clearUnder uvRsv w = true ↔ field w 16 16 = 0 := by
  rw [clearUnder, beq_iff_eq, ← field_all (w &&& uvRsv)]
  change field _ 0 (16 + 16) = 0#16 ++ 0#16 ↔ _
  rw [field_eq_append, field_and_of_ones rfl, field_and_of_zero rfl]
  simp

/-! ### What a word encodes: exactly its fields, with the reserved bits clear (30_encoding.md R101 to R107) -/

theorem eq_encodeXY_iff {w : Word} {p : XY} : w = encodeXY p ↔ clearUnder xyRsv w = true ∧ xyOf w = p := by
  conv_lhs => rw [← field_all w]
  change field w 0 (5 + 11 + 5 + 11) = 0#5 ++ p.y ++ 0#5 ++ p.x ↔ _
  rw [field_eq_append, field_eq_append, field_eq_append, clearUnder_xyRsv_iff, xyOf, XY.mk.injEq]
  tauto

theorem eq_encodePage_iff {w : Word} {x : BitVec 10} {y : BitVec 9} :
    w = encodePage x y ↔ clearUnder pageRsv w = true ∧ field w 0 10 = x ∧ field w 16 9 = y := by
  conv_lhs => rw [← field_all w]
  change field w 0 (7 + 9 + 6 + 10) = 0#7 ++ y ++ 0#6 ++ x ↔ _
  rw [field_eq_append, field_eq_append, field_eq_append, clearUnder_pageRsv_iff]
  tauto

theorem eq_encodeColor_iff {w : Word} {c : Color} :
    w = encodeColor c ↔ clearUnder colorRsv w = true ∧ colorOf w = c := by
  conv_lhs => rw [← field_all w]
  change field w 0 (8 + 8 + 8 + 8) = 0#8 ++ c.b ++ c.g ++ c.r ↔ _
  rw [field_eq_append, field_eq_append, field_eq_append, clearUnder_colorRsv_iff, colorOf, Color.mk.injEq]
  tauto

theorem eq_encodeUV_iff {w : Word} {t : UV} : w = encodeUV t ↔ clearUnder uvRsv w = true ∧ uvOf w = t := by
  conv_lhs => rw [← field_all w]
  change field w 0 (16 + 8 + 8) = 0#16 ++ t.v ++ t.u ↔ _
  rw [field_eq_append, field_eq_append, clearUnder_uvRsv_iff, uvOf, UV.mk.injEq]
  tauto

/-- A word of two halves (30_encoding.md R103, R108). -/
theorem eq_halves_iff {w : Word} {hi lo : BitVec 16} : w = hi ++ lo ↔ field w 0 16 = lo ∧ field w 16 16 = hi := by
  conv_lhs => rw [← field_all w]
  change field w 0 (16 + 16) = hi ++ lo ↔ _
  rw [field_eq_append]
  tauto

theorem eq_encodeWindow_iff {w : Word} {c : DrawCfg} :
    w = encodeWindow c ↔
      field w 0 8 = c.winAndX ∧ field w 8 8 = c.winAndY ∧ field w 16 8 = c.winOrX ∧ field w 24 8 = c.winOrY := by
  conv_lhs => rw [← field_all w]
  change field w 0 (8 + 8 + 8 + 8) = c.winOrY ++ c.winOrX ++ c.winAndY ++ c.winAndX ↔ _
  rw [field_eq_append, field_eq_append, field_eq_append]
  tauto

/-! The codes of the header's fields (30_encoding.md R102, R110). -/

theorem eq_texModeCode_iff {b : BitVec 2} {m : TexMode} : b = m.code ↔ texModeOf b = m := by
  cases m <;> revert b <;> decide

theorem eq_blendModeCode_iff {b : BitVec 2} {m : BlendMode} : b = m.code ↔ blendModeOf b = m := by
  cases m <;> revert b <;> decide

theorem kindOf_eq_some_iff {h : Word} {k : Kind} : kindOf h = some k ↔ field h 0 3 = k.code := by
  unfold kindOf
  generalize field h 0 3 = b
  cases k <;> revert b <;> decide

/-- What a header word says: its kind, the four flags that the kinds share in part, and the common flags and modes of
`c` (30_encoding.md R101). -/
structure HeaderSays (h : Word) (k : Kind) (shade tex raw dither : Bool) (c : DrawCfg) : Prop where
  ok     : headerOk h = true
  kind   : kindOf h = some k
  shade  : flag h 3 = shade
  tex    : flag h 4 = tex
  raw    : flag h 5 = raw
  trans  : flag h 6 = c.trans
  dither : flag h 7 = dither
  ilace  : flag h 8 = c.ilace
  alsb   : flag h 9 = c.alsb
  tmode  : texModeOf (field h 10 2) = c.tmode
  bmode  : blendModeOf (field h 12 2) = c.bmode

theorem eq_encodeHeader_iff {h : Word} {k : Kind} {shade tex raw dither : Bool} {c : DrawCfg} :
    h = encodeHeader k shade tex raw dither c ↔ HeaderSays h k shade tex raw dither c := by
  conv_lhs => rw [← field_all h]
  change field h 0 (18 + 2 + 2 + 1 + 1 + 1 + 1 + 1 + 1 + 1 + 3) = 0#18 ++ c.bmode.code ++ c.tmode.code ++
    BitVec.ofBool c.alsb ++ BitVec.ofBool c.ilace ++ BitVec.ofBool dither ++ BitVec.ofBool c.trans ++
    BitVec.ofBool raw ++ BitVec.ofBool tex ++ BitVec.ofBool shade ++ k.code ↔ _
  repeat rw [field_eq_append]
  simp only [Nat.reduceAdd, field_one_eq_ofBool, eq_texModeCode_iff, eq_blendModeCode_iff, ← kindOf_eq_some_iff]
  constructor
  · rintro ⟨⟨⟨⟨⟨⟨⟨⟨⟨⟨hok, hb⟩, ht⟩, ha⟩, hi⟩, hd⟩, htr⟩, hr⟩, htx⟩, hs⟩, hk⟩
    exact ⟨beq_iff_eq.mpr hok, hk, hs, htx, hr, htr, hd, hi, ha, ht, hb⟩
  · rintro ⟨hok, hk, hs, htx, hr, htr, hd, hi, ha, ht, hb⟩
    exact ⟨⟨⟨⟨⟨⟨⟨⟨⟨⟨beq_iff_eq.mp hok, hb⟩, ht⟩, ha⟩, hi⟩, hd⟩, htr⟩, hr⟩, htx⟩, hs⟩, hk⟩

/-! ### Reading an encoded word, and encoding a read one -/

@[simp] theorem clearUnder_encodeXY (p : XY) : clearUnder xyRsv (encodeXY p) = true := (eq_encodeXY_iff.mp rfl).1

@[simp] theorem xyOf_encodeXY (p : XY) : xyOf (encodeXY p) = p := (eq_encodeXY_iff.mp rfl).2

@[simp] theorem clearUnder_encodePage (x : BitVec 10) (y : BitVec 9) : clearUnder pageRsv (encodePage x y) = true :=
  (eq_encodePage_iff.mp rfl).1

@[simp] theorem sizeOf_encodePage (sz : Size) : sizeOf (encodePage sz.w sz.h) = sz := by
  obtain ⟨-, hx, hy⟩ := eq_encodePage_iff.mp (rfl : encodePage sz.w sz.h = _)
  rw [sizeOf, hx, hy]

@[simp] theorem clearUnder_encodeColor (c : Color) : clearUnder colorRsv (encodeColor c) = true :=
  (eq_encodeColor_iff.mp rfl).1

@[simp] theorem colorOf_encodeColor (c : Color) : colorOf (encodeColor c) = c := (eq_encodeColor_iff.mp rfl).2

@[simp] theorem clearUnder_encodeUV (t : UV) : clearUnder uvRsv (encodeUV t) = true := (eq_encodeUV_iff.mp rfl).1

@[simp] theorem uvOf_encodeUV (t : UV) : uvOf (encodeUV t) = t := (eq_encodeUV_iff.mp rfl).2

theorem encodePage_sizeOf {w : Word} (h : clearUnder pageRsv w = true) : encodePage (sizeOf w).w (sizeOf w).h = w :=
  (eq_encodePage_iff.mpr ⟨h, rfl, rfl⟩).symm

theorem encodeLineVertex_lineVertexOf {xy col : Word} (h : lineVertexOk xy col = true) :
    encodeLineVertex (lineVertexOf xy col) = [xy, col] := by
  simp only [lineVertexOk, Bool.and_eq_true] at h
  rw [encodeLineVertex, lineVertexOf, ← eq_encodeXY_iff.mpr ⟨h.1, rfl⟩, ← eq_encodeColor_iff.mpr ⟨h.2, rfl⟩]

theorem encodeVertex_vertexOf {xy col uv : Word} (h : vertexOk xy col uv = true) :
    encodeVertex (vertexOf xy col uv) = [xy, col, uv] := by
  simp only [vertexOk, Bool.and_eq_true] at h
  obtain ⟨⟨hxy, hcol⟩, huv⟩ := h
  rw [encodeVertex, vertexOf, ← eq_encodeXY_iff.mpr ⟨hxy, rfl⟩, ← eq_encodeColor_iff.mpr ⟨hcol, rfl⟩,
    ← eq_encodeUV_iff.mpr ⟨huv, rfl⟩]

theorem encodeCfg_cfgOf {h w1 w2 w3 w4 : Word} (hok : cfgOk w2 w3 = true) :
    encodeCfg (cfgOf h w1 w2 w3 w4) = [w1, w2, w3, w4] := by
  simp only [cfgOk, Bool.and_eq_true] at hok
  have hmask : w1 = encodeMask (cfgOf h w1 w2 w3 w4) := eq_halves_iff.mpr ⟨rfl, rfl⟩
  have hpage : w2 = encodePage (cfgOf h w1 w2 w3 w4).pageX (cfgOf h w1 w2 w3 w4).pageY :=
    eq_encodePage_iff.mpr ⟨hok.1, rfl, rfl⟩
  have hclut : w3 = encodePage (cfgOf h w1 w2 w3 w4).clutX (cfgOf h w1 w2 w3 w4).clutY :=
    eq_encodePage_iff.mpr ⟨hok.2, rfl, rfl⟩
  have hwindow : w4 = encodeWindow (cfgOf h w1 w2 w3 w4) := eq_encodeWindow_iff.mpr ⟨rfl, rfl, rfl, rfl⟩
  rw [encodeCfg, ← hmask, ← hpage, ← hclut, ← hwindow]

/-- A header with the flags of its kind is the encoding of what it says. -/
theorem encodeHeader_cfgOf {h w1 w2 w3 w4 : Word} {k : Kind} {shade tex raw dither : Bool} (hok : headerOk h = true)
    (hk : kindOf h = some k) (hs : flag h 3 = shade) (ht : flag h 4 = tex) (hr : flag h 5 = raw)
    (hd : flag h 7 = dither) : encodeHeader k shade tex raw dither (cfgOf h w1 w2 w3 w4) = h :=
  (eq_encodeHeader_iff.mpr ⟨hok, hk, hs, ht, hr, rfl, hd, rfl, rfl, rfl, rfl⟩).symm

theorem encodeHeader_polyFlagsOf {h w1 w2 w3 w4 : Word} {k : Kind} (hok : headerOk h = true) (hk : kindOf h = some k) :
    encodeHeader k (polyFlagsOf h).shade (polyFlagsOf h).tex (polyFlagsOf h).raw (polyFlagsOf h).dither
      (cfgOf h w1 w2 w3 w4) = h := encodeHeader_cfgOf hok hk rfl rfl rfl rfl

/-- The configuration words of `c` under a header that says `c` read as `c`. -/
theorem HeaderSays.cfgOf_encode {h : Word} {k : Kind} {shade tex raw dither : Bool} {c : DrawCfg}
    (hh : HeaderSays h k shade tex raw dither c) :
    cfgOf h (encodeMask c) (encodePage c.pageX c.pageY) (encodePage c.clutX c.clutY) (encodeWindow c) = c := by
  obtain ⟨hand, hor⟩ := eq_halves_iff.mp (rfl : encodeMask c = c.maskOr ++ c.maskAnd)
  obtain ⟨-, hpx, hpy⟩ := eq_encodePage_iff.mp (rfl : encodePage c.pageX c.pageY = _)
  obtain ⟨-, hcx, hcy⟩ := eq_encodePage_iff.mp (rfl : encodePage c.clutX c.clutY = _)
  obtain ⟨hax, hay, hox, hoy⟩ := eq_encodeWindow_iff.mp (rfl : encodeWindow c = _)
  rw [cfgOf, hh.trans, hh.ilace, hh.alsb, hh.tmode, hh.bmode, hand, hor, hpx, hpy, hcx, hcy, hax, hay, hox, hoy]

/-- The header's check of the texture mode is that of the command (30_encoding.md R111 order 7). -/
theorem headerBadTmode_eq_false_iff {h : Word} :
    headerBadTmode h = false ↔ texModeOk (flag h 4) (texModeOf (field h 10 2)) = true := by
  unfold headerBadTmode texModeOk
  generalize field h 10 2 = b
  generalize flag h 4 = t
  revert b t
  decide

/-! ### The decoder, check by check (30_encoding.md R111) -/

/-- A draw record passes when every check does. -/
theorem checked_eq_ok_iff {d badFlags badTmode fieldsOk : Bool} {i j : Instr} {rest more : List Word} :
    checked (drawCheck d badFlags badTmode fieldsOk) i rest = .ok (j, more) ↔
      d = true ∧ badFlags = false ∧ badTmode = false ∧ fieldsOk = true ∧ i = j ∧ rest = more := by
  cases d <;> cases badFlags <;> cases badTmode <;> cases fieldsOk <;> simp [drawCheck, checked]

theorem decodeWith_of_kind {d : Bool} {h : Word} {ws : List Word} {k : Kind} (hok : headerOk h = true)
    (hk : kindOf h = some k) :
    decodeWith d (h :: ws) = match k with
      | .rect => decodeRect d h ws
      | .line => decodeLine d h ws
      | .tri => decodeTri d h ws
      | .quad => decodeQuad d h ws
      | .setarea => decodeSetarea h ws := by
  simp only [decodeWith, hok, hk, if_true]
  cases k <;> rfl

section
variable {i : Instr} {h : Word} {ws rest : List Word} (hok : headerOk h = true)
include hok

theorem encode_of_decodeRect (hk : kindOf h = some .rect) (hd : decodeRect true h ws = .ok (i, rest)) :
    encode i ++ rest = h :: ws ∧ WellFormed i = true := by
  unfold decodeRect at hd
  split at hd
  · obtain ⟨-, hflags, hmode, hfields, rfl, rfl⟩ := checked_eq_ok_iff.mp hd
    simp only [Bool.or_eq_false_iff] at hflags
    simp only [Bool.and_eq_true] at hfields
    obtain ⟨⟨⟨⟨hcfg, hxy⟩, hsize⟩, hcol⟩, huv⟩ := hfields
    refine ⟨?_, headerBadTmode_eq_false_iff.mp hmode⟩
    rw [encode,
      encodeHeader_cfgOf hok hk hflags.1 (rfl : _ = (rectFlagsOf h).tex) (rfl : _ = (rectFlagsOf h).raw) hflags.2,
      encodeCfg_cfgOf hcfg, ← eq_encodeXY_iff.mpr ⟨hxy, rfl⟩, encodePage_sizeOf hsize,
      ← eq_encodeColor_iff.mpr ⟨hcol, rfl⟩, ← eq_encodeUV_iff.mpr ⟨huv, rfl⟩]
    rfl
  · cases hd

theorem encode_of_decodeLine (hk : kindOf h = some .line) (hd : decodeLine true h ws = .ok (i, rest)) :
    encode i ++ rest = h :: ws ∧ WellFormed i = true := by
  unfold decodeLine at hd
  split at hd
  · obtain ⟨-, hflags, -, hfields, rfl, rfl⟩ := checked_eq_ok_iff.mp hd
    simp only [Bool.or_eq_false_iff] at hflags
    simp only [Bool.and_eq_true] at hfields
    obtain ⟨⟨hcfg, hp0⟩, hp1⟩ := hfields
    refine ⟨?_, rfl⟩
    rw [encode,
      encodeHeader_cfgOf hok hk (rfl : _ = (lineFlagsOf h).shade) hflags.1 hflags.2 (rfl : _ = (lineFlagsOf h).dither),
      encodeCfg_cfgOf hcfg, encodeLineVertex_lineVertexOf hp0, encodeLineVertex_lineVertexOf hp1]
    rfl
  · cases hd

theorem encode_of_decodeTri (hk : kindOf h = some .tri) (hd : decodeTri true h ws = .ok (i, rest)) :
    encode i ++ rest = h :: ws ∧ WellFormed i = true := by
  unfold decodeTri at hd
  split at hd
  · obtain ⟨-, -, hmode, hfields, rfl, rfl⟩ := checked_eq_ok_iff.mp hd
    simp only [Bool.and_eq_true] at hfields
    obtain ⟨⟨⟨hcfg, hv0⟩, hv1⟩, hv2⟩ := hfields
    refine ⟨?_, headerBadTmode_eq_false_iff.mp hmode⟩
    rw [encode, encodeHeader_polyFlagsOf hok hk, encodeCfg_cfgOf hcfg, encodeVertex_vertexOf hv0,
      encodeVertex_vertexOf hv1, encodeVertex_vertexOf hv2]
    rfl
  · cases hd

theorem encode_of_decodeQuad (hk : kindOf h = some .quad) (hd : decodeQuad true h ws = .ok (i, rest)) :
    encode i ++ rest = h :: ws ∧ WellFormed i = true := by
  unfold decodeQuad at hd
  split at hd
  · obtain ⟨-, -, hmode, hfields, rfl, rfl⟩ := checked_eq_ok_iff.mp hd
    simp only [Bool.and_eq_true] at hfields
    obtain ⟨⟨⟨⟨hcfg, hv0⟩, hv1⟩, hv2⟩, hv3⟩ := hfields
    refine ⟨?_, headerBadTmode_eq_false_iff.mp hmode⟩
    rw [encode, encodeHeader_polyFlagsOf hok hk, encodeCfg_cfgOf hcfg, encodeVertex_vertexOf hv0,
      encodeVertex_vertexOf hv1, encodeVertex_vertexOf hv2, encodeVertex_vertexOf hv3]
    rfl
  · cases hd

end

theorem encode_of_decodeSetarea {i : Instr} {h : Word} {ws rest : List Word}
    (hd : decodeSetarea h ws = .ok (i, rest)) : encode i ++ rest = h :: ws ∧ WellFormed i = true := by
  unfold decodeSetarea at hd
  split at hd
  · split at hd
    · rename_i w1 w2 _ hh
      cases hd
      refine ⟨?_, rfl⟩
      rw [encode, ← (eq_halves_iff (w := w1)).mpr ⟨rfl, rfl⟩, ← (eq_halves_iff (w := w2)).mpr ⟨rfl, rfl⟩, hh]
      rfl
    · cases hd
  · cases hd

/-! ### Encoding, then decoding -/

theorem headerSays_encodeHeader (k : Kind) (shade tex raw dither : Bool) (c : DrawCfg) :
    HeaderSays (encodeHeader k shade tex raw dither c) k shade tex raw dither c := eq_encodeHeader_iff.mp rfl

theorem HeaderSays.badTmode {h : Word} {k : Kind} {shade tex raw dither : Bool} {c : DrawCfg}
    (hh : HeaderSays h k shade tex raw dither c) (hw : texModeOk tex c.tmode = true) : headerBadTmode h = false := by
  rwa [headerBadTmode_eq_false_iff, hh.tex, hh.tmode]

@[simp] theorem cfgOk_encodePage (x x' : BitVec 10) (y y' : BitVec 9) :
    cfgOk (encodePage x y) (encodePage x' y') = true := by simp [cfgOk]

@[simp] theorem lineVertexOk_encode (v : LineVertex) : lineVertexOk (encodeXY v.pos) (encodeColor v.color) = true := by
  simp [lineVertexOk]

@[simp] theorem lineVertexOf_encode (v : LineVertex) : lineVertexOf (encodeXY v.pos) (encodeColor v.color) = v := by
  simp [lineVertexOf]

@[simp] theorem vertexOk_encode (v : Vertex) :
    vertexOk (encodeXY v.pos) (encodeColor v.color) (encodeUV v.uv) = true := by simp [vertexOk]

@[simp] theorem vertexOf_encode (v : Vertex) : vertexOf (encodeXY v.pos) (encodeColor v.color) (encodeUV v.uv) = v := by
  simp [vertexOf]

theorem decode_encode_rect {f : RectFlags} {c : DrawCfg} {o : XY} {sz : Size} {col : Color} {uv : UV}
    (hw : texModeOk f.tex c.tmode = true) (rest : List Word) :
    decode (encode (.rect f c o sz col uv) ++ rest) = .ok (.rect f c o sz col uv, rest) := by
  have hh := headerSays_encodeHeader .rect false f.tex f.raw false c
  refine (decodeWith_of_kind hh.ok hh.kind).trans (checked_eq_ok_iff.mpr ⟨rfl, ?_, hh.badTmode hw, ?_, ?_, rfl⟩)
  · rw [hh.shade, hh.dither]; rfl
  · simp
  · rw [rectFlagsOf, hh.tex, hh.raw, hh.cfgOf_encode]; simp

theorem decode_encode_line (f : LineFlags) (c : DrawCfg) (p0 p1 : LineVertex) (rest : List Word) :
    decode (encode (.line f c p0 p1) ++ rest) = .ok (.line f c p0 p1, rest) := by
  have hh := headerSays_encodeHeader .line f.shade false false f.dither c
  refine (decodeWith_of_kind hh.ok hh.kind).trans (checked_eq_ok_iff.mpr ⟨rfl, ?_, hh.badTmode rfl, ?_, ?_, rfl⟩)
  · rw [hh.tex, hh.raw]; rfl
  · simp
  · rw [lineFlagsOf, hh.shade, hh.dither, hh.cfgOf_encode]; simp

theorem decode_encode_tri {f : PolyFlags} {c : DrawCfg} (v0 v1 v2 : Vertex) (hw : texModeOk f.tex c.tmode = true)
    (rest : List Word) : decode (encode (.tri f c v0 v1 v2) ++ rest) = .ok (.tri f c v0 v1 v2, rest) := by
  have hh := headerSays_encodeHeader .tri f.shade f.tex f.raw f.dither c
  refine (decodeWith_of_kind hh.ok hh.kind).trans (checked_eq_ok_iff.mpr ⟨rfl, rfl, hh.badTmode hw, ?_, ?_, rfl⟩)
  · simp
  · rw [polyFlagsOf, hh.shade, hh.tex, hh.raw, hh.dither, hh.cfgOf_encode]; simp

theorem decode_encode_quad {f : PolyFlags} {c : DrawCfg} (v0 v1 v2 v3 : Vertex) (hw : texModeOk f.tex c.tmode = true)
    (rest : List Word) : decode (encode (.quad f c v0 v1 v2 v3) ++ rest) = .ok (.quad f c v0 v1 v2 v3, rest) := by
  have hh := headerSays_encodeHeader .quad f.shade f.tex f.raw f.dither c
  refine (decodeWith_of_kind hh.ok hh.kind).trans (checked_eq_ok_iff.mpr ⟨rfl, rfl, hh.badTmode hw, ?_, ?_, rfl⟩)
  · simp
  · rw [polyFlagsOf, hh.shade, hh.tex, hh.raw, hh.dither, hh.cfgOf_encode]; simp

theorem decode_encode_setarea (l t r b : BitVec 16) (rest : List Word) :
    decode (encode (.setarea l t r b) ++ rest) = .ok (.setarea l t r b, rest) := by
  obtain ⟨hl, ht⟩ := eq_halves_iff.mp (rfl : t ++ l = t ++ l)
  obtain ⟨hr, hb⟩ := eq_halves_iff.mp (rfl : b ++ r = b ++ r)
  refine (decodeWith_of_kind (k := .setarea) (h := 4#32) (by decide) (by decide)).trans ?_
  change Except.ok (Instr.setarea (field (t ++ l) 0 16) (field (t ++ l) 16 16) (field (b ++ r) 0 16)
    (field (b ++ r) 16 16), rest) = _
  rw [hl, ht, hr, hb]

/-- Settles O13, kind by kind: every check passes on the encoded words, and each word reads as what it encodes. -/
theorem decodeOfEncodeIsTheCommand : Obligations.DecodeOfEncodeIsTheCommand := by
  unfold Obligations.DecodeOfEncodeIsTheCommand
  intro i rest hw
  cases i with
  | rect => exact decode_encode_rect hw rest
  | line => exact decode_encode_line _ _ _ _ rest
  | tri => exact decode_encode_tri _ _ _ hw rest
  | quad => exact decode_encode_quad _ _ _ _ hw rest
  | setarea => exact decode_encode_setarea _ _ _ _ rest

/-- Settles O14, kind by kind: the checks that passed say that no reserved bit and no forbidden flag is set. -/
theorem encodeOfDecodeIsTheRecord : Obligations.EncodeOfDecodeIsTheRecord := by
  unfold Obligations.EncodeOfDecodeIsTheRecord
  intro ws rest i hd
  obtain _ | ⟨h, ws⟩ := ws
  · cases hd
  cases hok : headerOk h with
  | false => simp [decode, decodeWith, hok] at hd
  | true =>
    cases hk : kindOf h with
    | none => simp [decode, decodeWith, hok, hk] at hd
    | some k =>
      rw [decode, decodeWith_of_kind hok hk] at hd
      cases k with
      | rect => exact encode_of_decodeRect hok hk hd
      | line => exact encode_of_decodeLine hok hk hd
      | tri => exact encode_of_decodeTri hok hk hd
      | quad => exact encode_of_decodeQuad hok hk hd
      | setarea => exact encode_of_decodeSetarea hd

/-! ### The refusal table on the numbers of the words (30_encoding.md R111) -/

/-- The reason of a refused record, none for an accepted one. -/
def refusalOf (o : Except RefReason (Instr × List Word)) : Option RefReason :=
  match o with
  | .error r => some r
  | .ok _ => none

theorem error_iff_refusalOf {o : Except RefReason (Instr × List Word)} {r : RefReason} :
    o = .error r ↔ refusalOf o = some r := by
  cases o <;> simp [refusalOf]

theorem ok_iff_refusalOf {o : Except RefReason (Instr × List Word)} :
    (∃ p, o = .ok p) ↔ refusalOf o = none := by
  cases o <;> simp [refusalOf]

theorem refusalOf_checked (c : Option RefReason) (i : Instr) (rest : List Word) :
    refusalOf (checked c i rest) = c := by
  cases c <;> rfl

theorem toNat_and_ne_zero (w m : Word) : (w.toNat &&& m.toNat != 0) = !clearUnder m w := by
  rw [clearUnder, ← BitVec.toNat_and, Bool.eq_iff_iff]
  simp [← BitVec.toNat_inj]

theorem reservedSet_rect (w1 w2 w3 w4 w5 w6 w7 w8 : Word) (rest : List Word) :
    reservedSet Kind.rect.code.toNat (w1 :: w2 :: w3 :: w4 :: w5 :: w6 :: w7 :: w8 :: rest) =
      !(cfgOk w2 w3 && clearUnder xyRsv w5 && clearUnder pageRsv w6 && clearUnder colorRsv w7
        && clearUnder uvRsv w8) := by
  simp only [cfgOk, Bool.not_and, ← toNat_and_ne_zero]
  simp [reservedSet, Kind.code, lengthByTable, List.range_succ, reservedByTable, pageRsv, xyRsv, colorRsv,
    uvRsv, Bool.or_assoc]

theorem reservedSet_line (w1 w2 w3 w4 w5 w6 w7 w8 : Word) (rest : List Word) :
    reservedSet Kind.line.code.toNat (w1 :: w2 :: w3 :: w4 :: w5 :: w6 :: w7 :: w8 :: rest) =
      !(cfgOk w2 w3 && lineVertexOk w5 w6 && lineVertexOk w7 w8) := by
  simp only [cfgOk, lineVertexOk, Bool.not_and, ← toNat_and_ne_zero]
  simp [reservedSet, Kind.code, lengthByTable, List.range_succ, reservedByTable, pageRsv, xyRsv, colorRsv,
    Bool.or_assoc]

theorem reservedSet_tri (w1 w2 w3 w4 a0 a1 a2 b0 b1 b2 c0 c1 c2 : Word) (rest : List Word) :
    reservedSet Kind.tri.code.toNat
        (w1 :: w2 :: w3 :: w4 :: a0 :: a1 :: a2 :: b0 :: b1 :: b2 :: c0 :: c1 :: c2 :: rest) =
      !(cfgOk w2 w3 && vertexOk a0 a1 a2 && vertexOk b0 b1 b2 && vertexOk c0 c1 c2) := by
  simp only [cfgOk, vertexOk, Bool.not_and, ← toNat_and_ne_zero]
  simp [reservedSet, Kind.code, lengthByTable, List.range_succ, reservedByTable, pageRsv, xyRsv, colorRsv,
    uvRsv, Bool.or_assoc]

theorem reservedSet_quad (w1 w2 w3 w4 a0 a1 a2 b0 b1 b2 c0 c1 c2 d0 d1 d2 : Word) (rest : List Word) :
    reservedSet Kind.quad.code.toNat
        (w1 :: w2 :: w3 :: w4 :: a0 :: a1 :: a2 :: b0 :: b1 :: b2 :: c0 :: c1 :: c2 :: d0 :: d1 :: d2 :: rest) =
      !(cfgOk w2 w3 && vertexOk a0 a1 a2 && vertexOk b0 b1 b2 && vertexOk c0 c1 c2 && vertexOk d0 d1 d2) := by
  simp only [cfgOk, vertexOk, Bool.not_and, ← toNat_and_ne_zero]
  simp [reservedSet, Kind.code, lengthByTable, List.range_succ, reservedByTable, pageRsv, xyRsv, colorRsv,
    uvRsv, Bool.or_assoc]

theorem reservedSet_setarea (ws : List Word) : reservedSet 4 ws = false := by
  simp [reservedSet, reservedByTable]

theorem headerOk_iff {h : Word} : headerOk h = true ↔ h.toNat / 2 ^ 14 = 0 := by
  have := h.isLt
  rw [headerOk, beq_iff_eq, ← BitVec.toNat_inj, field, BitVec.extractLsb'_toNat, Nat.shiftRight_eq_div_pow]
  change h.toNat / 2 ^ 14 % 2 ^ 18 = 0 ↔ _
  omega

theorem field_kind_toNat (h : Word) : (field h 0 3).toNat = h.toNat % 8 := by
  rw [field, BitVec.extractLsb'_toNat, Nat.shiftRight_zero]

theorem kindOf_eq_none_iff {h : Word} : kindOf h = none ↔ 5 ≤ h.toNat % 8 := by
  rw [← field_kind_toNat, kindOf]
  generalize field h 0 3 = b
  revert b
  decide

theorem toNat_mod_of_kindOf {h : Word} {k : Kind} (hk : kindOf h = some k) : h.toNat % 8 = k.code.toNat := by
  rw [← field_kind_toNat, kindOf_eq_some_iff.mp hk]

theorem headerBadTmode_iff {h : Word} :
    headerBadTmode h = true ↔ h.toNat.testBit 4 = true ∧ h.toNat / 2 ^ 10 % 4 = 3 := by
  rw [headerBadTmode, Bool.and_eq_true, beq_iff_eq, ← BitVec.toNat_inj, field, BitVec.extractLsb'_toNat,
    Nat.shiftRight_eq_div_pow]
  rfl

/-- The flags that a kind forbids are set (30_encoding.md R111 order 6). -/
def forbiddenFlags (h : Word) : Kind → Bool
  | .rect => flag h 3 || flag h 7
  | .line => flag h 4 || flag h 5
  | _ => false

section
variable {d : Bool} {h : Word} {ws : List Word} {k : Kind} (hok : headerOk h = true) (hk : kindOf h = some k)
include hok hk

theorem refusalByTable_of_short (hlen : ws.length + 1 < k.length) : refusalByTable d h ws = some .len := by
  have hcode := toNat_mod_of_kindOf hk
  have htable : k.code.toNat < 5 ∧ lengthByTable k.code.toNat = k.length := by cases k <;> decide
  rw [refusalByTable, hcode, if_neg (not_not.mpr (headerOk_iff.mp hok)), if_neg (by omega), if_pos (by omega)]

theorem refusalByTable_of_draw (hne : k ≠ .setarea) (hlen : k.length ≤ ws.length + 1) :
    refusalByTable d h ws =
      drawCheck d (forbiddenFlags h k) (headerBadTmode h) (!reservedSet k.code.toNat ws) := by
  have hcode := toNat_mod_of_kindOf hk
  have htable : k.code.toNat < 4 ∧ lengthByTable k.code.toNat = k.length := by revert hne; cases k <;> decide
  have hflags : ((k.code.toNat = 0 ∧ (h.toNat.testBit 3 = true ∨ h.toNat.testBit 7 = true))
      ∨ (k.code.toNat = 1 ∧ (h.toNat.testBit 4 = true ∨ h.toNat.testBit 5 = true))) ↔ forbiddenFlags h k = true := by
    cases k <;> simp [Kind.code, forbiddenFlags, flag, BitVec.getLsbD]
  rw [refusalByTable, hcode, if_neg (not_not.mpr (headerOk_iff.mp hok)), if_neg (by omega), if_neg (by omega),
    if_neg (by omega)]
  simp only [hflags, ← headerBadTmode_iff, htable.1, true_and]
  cases d <;> simp [drawCheck]

end

section
variable {d : Bool} {h : Word} {ws : List Word} (hok : headerOk h = true)
include hok

theorem refusalOf_decodeRect (hk : kindOf h = some .rect) : refusalOf (decodeRect d h ws) = refusalByTable d h ws := by
  unfold decodeRect
  split
  · rw [refusalOf_checked, refusalByTable_of_draw hok hk (by decide) (Nat.le_add_left 9 _), reservedSet_rect,
      Bool.not_not]
    rfl
  · rename_i hne
    refine (refusalByTable_of_short hok hk ?_).symm
    by_contra hlen
    simp only [Kind.length, not_lt] at hlen
    exact hne ws[0] ws[1] ws[2] ws[3] ws[4] ws[5] ws[6] ws[7] (ws.drop 8) (by simp [-List.drop_one])

theorem refusalOf_decodeLine (hk : kindOf h = some .line) : refusalOf (decodeLine d h ws) = refusalByTable d h ws := by
  unfold decodeLine
  split
  · rw [refusalOf_checked, refusalByTable_of_draw hok hk (by decide) (Nat.le_add_left 9 _), reservedSet_line,
      Bool.not_not]
    rfl
  · rename_i hne
    refine (refusalByTable_of_short hok hk ?_).symm
    by_contra hlen
    simp only [Kind.length, not_lt] at hlen
    exact hne ws[0] ws[1] ws[2] ws[3] ws[4] ws[5] ws[6] ws[7] (ws.drop 8) (by simp [-List.drop_one])

theorem refusalOf_decodeTri (hk : kindOf h = some .tri) : refusalOf (decodeTri d h ws) = refusalByTable d h ws := by
  unfold decodeTri
  split
  · rw [refusalOf_checked, refusalByTable_of_draw hok hk (by decide) (Nat.le_add_left 14 _), reservedSet_tri,
      Bool.not_not]
    rfl
  · rename_i hne
    refine (refusalByTable_of_short hok hk ?_).symm
    by_contra hlen
    simp only [Kind.length, not_lt] at hlen
    exact hne ws[0] ws[1] ws[2] ws[3] ws[4] ws[5] ws[6] ws[7] ws[8] ws[9] ws[10] ws[11] ws[12]
      (ws.drop 13) (by simp [-List.drop_one])

theorem refusalOf_decodeQuad (hk : kindOf h = some .quad) : refusalOf (decodeQuad d h ws) = refusalByTable d h ws := by
  unfold decodeQuad
  split
  · rw [refusalOf_checked, refusalByTable_of_draw hok hk (by decide) (Nat.le_add_left 17 _), reservedSet_quad,
      Bool.not_not]
    rfl
  · rename_i hne
    refine (refusalByTable_of_short hok hk ?_).symm
    by_contra hlen
    simp only [Kind.length, not_lt] at hlen
    exact hne ws[0] ws[1] ws[2] ws[3] ws[4] ws[5] ws[6] ws[7] ws[8] ws[9] ws[10] ws[11] ws[12] ws[13] ws[14] ws[15]
      (ws.drop 16) (by simp [-List.drop_one])

theorem refusalByTable_of_setarea (hk : kindOf h = some .setarea) (hlen : 3 ≤ ws.length + 1) :
    refusalByTable d h ws = if h = 4#32 then none else some .setareaFlags := by
  have hcode : h.toNat % 8 = 4 := toNat_mod_of_kindOf hk
  have hfour : h = 4#32 ↔ h.toNat = 4 := BitVec.toNat_inj.symm
  rw [refusalByTable, hcode, if_neg (not_not.mpr (headerOk_iff.mp hok)), if_neg (by decide),
    if_neg (by simpa [lengthByTable] using hlen)]
  by_cases hh : h.toNat = 4
  · simp [hfour, hh, reservedSet_setarea, show Nat.testBit 4 4 = false from rfl]
  · simp [hfour, hh]

theorem refusalOf_decodeSetarea (hk : kindOf h = some .setarea) :
    refusalOf (decodeSetarea h ws) = refusalByTable d h ws := by
  unfold decodeSetarea
  split
  · rw [refusalByTable_of_setarea hok hk (Nat.le_add_left 3 _)]
    split <;> rfl
  · rename_i hne
    refine (refusalByTable_of_short hok hk ?_).symm
    by_contra hlen
    simp only [Kind.length, not_lt] at hlen
    exact hne ws[0] ws[1] (ws.drop 2) (by simp [-List.drop_one])

end

/-- The decoder refuses with the reason of the table, and accepts when the table gives none. -/
theorem refusalOf_decodeWith (d : Bool) (h : Word) (ws : List Word) :
    refusalOf (decodeWith d (h :: ws)) = refusalByTable d h ws := by
  by_cases hok : headerOk h = true
  · cases hk : kindOf h with
    | none =>
      rw [refusalByTable, if_neg (not_not.mpr (headerOk_iff.mp hok)), if_pos (kindOf_eq_none_iff.mp hk), decodeWith,
        if_pos hok, hk]
      rfl
    | some k =>
      rw [decodeWith_of_kind hok hk]
      cases k with
      | rect => exact refusalOf_decodeRect hok hk
      | line => exact refusalOf_decodeLine hok hk
      | tri => exact refusalOf_decodeTri hok hk
      | quad => exact refusalOf_decodeQuad hok hk
      | setarea => exact refusalOf_decodeSetarea hok hk
  · rw [refusalByTable, if_pos (mt headerOk_iff.mpr hok), decodeWith, if_neg hok]
    rfl

/-- A refused record ends its unit, and the engine halts. -/
theorem submitRecord_of_error {s : State} {ws : List Word} {r : RefReason} (rest : List HostAction)
    (h : decodeWith s.da.set ws = .error r) :
    submitRecord ws rest s = .next ((s.withHost rest).refuse r).advance := by
  unfold submitRecord
  rw [h]

theorem step_of_refused {s : State} {ws : List Word} {rest : List HostAction} {r : RefReason} (hs : s.seq = .idle)
    (hh : s.host = .submit ws :: rest) (hd : decodeWith s.da.set ws = .error r) :
    step s = .next ((s.withHost rest).refuse r).advance := by
  rw [step_submit hs hh, submitRecord_of_error rest hd]

/-- Settles O4. -/
theorem refusedRecordHaltsAndChangesNothingElse : Obligations.RefusedRecordHaltsAndChangesNothingElse := by
  unfold Obligations.RefusedRecordHaltsAndChangesNothingElse
  exact fun s ws rest r hs hh hd => ⟨_, step_of_refused hs hh hd, rfl, fun i => exec_of_halted i rfl⟩

/-- Settles O15, by the one equation between the decoder's refusals and the table's. -/
theorem refusalFollowsTheTable : Obligations.RefusalFollowsTheTable := by
  unfold Obligations.RefusalFollowsTheTable
  intro d h ws
  have herror (r : RefReason) : decodeWith d (h :: ws) = .error r ↔ refusalByTable d h ws = some r := by
    rw [error_iff_refusalOf, refusalOf_decodeWith]
  refine ⟨herror, by rw [ok_iff_refusalOf, refusalOf_decodeWith], fun s rest r hs hset hh hr => ?_⟩
  rw [← herror, ← hset] at hr
  exact ⟨_, step_of_refused hs hh hr, rfl, rfl, rfl⟩

/-! ### The opcode map and the record length (30_encoding.md R102, R116, R117) -/

/-- The opcode map's row names the kind that the header's `KIND` field does. -/
theorem kindOf_of_opcode {h : Word} {k : Kind} (hrow : h &&& opcodeMask k = opcodeMatch k) : kindOf h = some k := by
  have hmask : field (opcodeMask k) 0 3 = BitVec.allOnes 3 := by cases k <;> rfl
  rw [kindOf_eq_some_iff, ← field_and_of_ones hmask, hrow]
  cases k <;> rfl

theorem flag_and (w m : Word) (i : Nat) : flag (w &&& m) i = (flag w i && flag m i) := BitVec.getLsbD_and

/-- A draw's header matches its row when no flag is set that the row's mask holds. -/
theorem HeaderSays.opcode {h : Word} {k : Kind} {shade tex raw dither : Bool} {c : DrawCfg}
    (hh : HeaderSays h k shade tex raw dither c) (hne : k ≠ .setarea)
    (hshade : (shade && flag (opcodeMask k) 3) = false) (htex : (tex && flag (opcodeMask k) 4) = false)
    (hraw : (raw && flag (opcodeMask k) 5) = false) (hdither : (dither && flag (opcodeMask k) 7) = false) :
    h &&& opcodeMask k = opcodeMatch k := by
  have hmatch : opcodeMatch k = 0#18 ++ 0#6 ++ BitVec.ofBool false ++ BitVec.ofBool false ++ BitVec.ofBool false ++
      BitVec.ofBool false ++ BitVec.ofBool false ++ k.code := by cases k <;> rfl
  have hrsv : field (opcodeMask k) 14 18 = BitVec.allOnes 18 := by cases k <;> rfl
  have hkind : field (opcodeMask k) 0 3 = BitVec.allOnes 3 := by cases k <;> rfl
  have hmodes : field (opcodeMask k) 8 6 = 0#6 := by revert hne; cases k <;> decide
  have htrans : flag (opcodeMask k) 6 = false := by revert hne; cases k <;> decide
  have hok : field h 14 18 = 0#18 := beq_iff_eq.mp hh.ok
  rw [← field_all (h &&& opcodeMask k), hmatch]
  change field _ 0 (18 + 6 + 1 + 1 + 1 + 1 + 1 + 3) = _
  repeat rw [field_eq_append]
  simp only [Nat.reduceAdd, field_one_eq_ofBool, flag_and, hh.shade, hh.tex, hh.raw, hh.dither, hshade, htex, hraw,
    hdither, htrans, Bool.and_false, field_and_of_ones hrsv, field_and_of_ones hkind, field_and_of_zero hmodes,
    kindOf_eq_some_iff.mp hh.kind, hok, and_self]

/-- Settles O16: a record that decodes begins with its command's header. -/
theorem opcodeMapNamesTheKind : Obligations.OpcodeMapNamesTheKind := by
  unfold Obligations.OpcodeMapNamesTheKind
  refine ⟨fun h ws rest i hd => ?_, fun h k k' hk hk' => ?_⟩
  · obtain ⟨he, -⟩ := encodeOfDecodeIsTheRecord _ _ _ hd
    cases i with
    | rect =>
      obtain rfl := (List.cons.inj he).1
      exact (headerSays_encodeHeader ..).opcode (by decide) rfl (Bool.and_false _) (Bool.and_false _) rfl
    | line =>
      obtain rfl := (List.cons.inj he).1
      exact (headerSays_encodeHeader ..).opcode (by decide) (Bool.and_false _) rfl rfl (Bool.and_false _)
    | tri | quad =>
      obtain rfl := (List.cons.inj he).1
      exact (headerSays_encodeHeader ..).opcode (by decide) (Bool.and_false _) (Bool.and_false _) (Bool.and_false _)
        (Bool.and_false _)
    | setarea =>
      obtain rfl := (List.cons.inj he).1
      exact (by decide : 4#32 &&& opcodeMask .setarea = opcodeMatch .setarea)
  · exact Option.some.inj ((kindOf_of_opcode hk).symm.trans (kindOf_of_opcode hk'))

theorem length_encode (i : Instr) : (encode i).length = i.kind.length := by
  cases i with
  | rect => exact Laws.EncodedLength.rect ..
  | line => exact Laws.EncodedLength.line ..
  | tri => exact Laws.EncodedLength.tri ..
  | quad => exact Laws.EncodedLength.quad ..
  | setarea => exact Laws.EncodedLength.setarea ..

/-- Settles O17: the record is the encoding of its command. -/
theorem recordLengthIsFixedByTheKind : Obligations.RecordLengthIsFixedByTheKind := by
  unfold Obligations.RecordLengthIsFixedByTheKind
  intro ws rest i hd
  obtain ⟨rfl, -⟩ := encodeOfDecodeIsTheRecord ws rest i hd
  exact ⟨by rw [List.length_append, length_encode], by cases i <;> rfl⟩

/-- Settles O18, by running the decoder on the three records. -/
theorem exampleRecordsDecode : Obligations.ExampleRecordsDecode := by
  unfold Obligations.ExampleRecordsDecode
  exact ⟨rfl, rfl, by decide, by decide, by decide⟩

/-! ### The assembler (30_encoding.md R119 to R122) -/

theorem signedOp_eq_some_iff {n : Nat} (hn : 0 < n) {v : Int} {b : BitVec n} :
    signedOp n v = some b ↔ b.toInt = v := by
  unfold signedOp
  constructor
  · split
    · rename_i h
      rintro ⟨⟩
      exact BitVec.toInt_ofInt_eq_self hn h.1 h.2
    · rintro ⟨⟩
  · rintro rfl
    rw [if_pos ⟨BitVec.le_toInt b, BitVec.toInt_lt⟩, BitVec.ofInt_toInt]

theorem unsignedOp_eq_some_iff {n : Nat} {v : Int} {b : BitVec n} :
    unsignedOp n v = some b ↔ (b.toNat : Int) = v := by
  unfold unsignedOp
  constructor
  · split
    · rename_i h
      rintro ⟨⟩
      rw [BitVec.toNat_ofInt, Int.natCast_pow, Nat.cast_ofNat, Int.emod_eq_of_lt h.1 h.2, Int.toNat_of_nonneg h.1]
    · rintro ⟨⟩
  · rintro rfl
    rw [if_pos ⟨Int.natCast_nonneg _, by exact_mod_cast b.isLt⟩, BitVec.ofInt_natCast, BitVec.ofNat_toNat,
      BitVec.setWidth_eq]

/-- Settles O19. -/
theorem assembledOperandsDecodeToThemselves : Obligations.AssembledOperandsDecodeToThemselves :=
  ⟨fun _ _ _ hn => signedOp_eq_some_iff hn, fun _ _ _ => unsignedOp_eq_some_iff⟩

theorem texModeOk_of_ne_reserved {m : TexMode} (h : m ≠ .reserved) (tex : Bool) : texModeOk tex m = true := by
  simp [texModeOk, h]

theorem wellFormed_of_asmSetarea {l t r b : Int} {i : Instr} (hi : asmSetarea l t r b = some i) :
    WellFormed i = true := by
  simp only [asmSetarea, Option.bind_eq_bind, Option.bind_eq_some_iff, Option.pure_def, Option.some.injEq] at hi
  obtain ⟨_, -, _, -, _, -, _, -, rfl⟩ := hi
  rfl

/-! A draw is assembled under a directive state whose texture mode is not the reserved one. -/

section
variable {c : DrawCfg} {sfx : List Suffix} {i : Instr}

theorem wellFormed_of_asmLineInstr {p0 p1 : AsmLineVertex} (hi : asmLineInstr c sfx p0 p1 = some i) :
    WellFormed i = true := by
  unfold asmLineInstr at hi
  split at hi
  · simp only [Option.bind_eq_bind, Option.bind_eq_some_iff, Option.pure_def, Option.some.injEq] at hi
    obtain ⟨_, -, _, -, rfl⟩ := hi
    rfl
  · cases hi

theorem wellFormed_of_asmSegments {a : AsmLineVertex} {vs : List AsmLineVertex} {is : List Instr}
    (hi : asmSegments c sfx a vs = some is) : ∀ i ∈ is, WellFormed i = true := by
  induction vs generalizing a is with
  | nil =>
    obtain rfl := Option.some.inj hi
    simp
  | cons b vs ih =>
    simp only [asmSegments, Option.bind_eq_bind, Option.bind_eq_some_iff, Option.pure_def, Option.some.injEq] at hi
    obtain ⟨i, hfirst, more, hmore, rfl⟩ := hi
    exact List.forall_mem_cons.mpr ⟨wellFormed_of_asmLineInstr hfirst, ih hmore⟩

theorem wellFormed_of_asmPolyline {vs : List AsmLineVertex} {is : List Instr} (hi : asmPolyline c sfx vs = some is) :
    ∀ i ∈ is, WellFormed i = true := by
  unfold asmPolyline at hi
  split at hi
  · exact wellFormed_of_asmSegments hi
  · cases hi

variable (hc : c.tmode ≠ .reserved)
include hc

theorem wellFormed_of_asmRect {x y w h r g b : Int} {uv : Option (Int × Int)}
    (hi : asmRect c sfx x y w h r g b uv = some i) : WellFormed i = true := by
  unfold asmRect at hi
  split at hi
  · simp only [Option.bind_eq_bind, Option.bind_eq_some_iff, Option.pure_def, Option.some.injEq] at hi
    obtain ⟨_, -, _, -, _, -, _, -, _, -, rfl⟩ := hi
    exact texModeOk_of_ne_reserved hc _
  · cases hi

theorem wellFormed_of_asmTri {v0 v1 v2 : AsmVertex} (hi : asmTri c sfx v0 v1 v2 = some i) : WellFormed i = true := by
  unfold asmTri at hi
  split at hi
  · simp only [Option.bind_eq_bind, Option.bind_eq_some_iff, Option.pure_def, Option.some.injEq] at hi
    obtain ⟨_, -, _, -, _, -, rfl⟩ := hi
    exact texModeOk_of_ne_reserved hc _
  · cases hi

theorem wellFormed_of_asmQuad {v0 v1 v2 v3 : AsmVertex} (hi : asmQuad c sfx v0 v1 v2 v3 = some i) :
    WellFormed i = true := by
  unfold asmQuad at hi
  split at hi
  · simp only [Option.bind_eq_bind, Option.bind_eq_some_iff, Option.pure_def, Option.some.injEq] at hi
    obtain ⟨_, -, _, -, _, -, _, -, rfl⟩ := hi
    exact texModeOk_of_ne_reserved hc _
  · cases hi

end

/-- What a line leaves: the directive state does not hold the reserved texture mode, and every command emitted is well
formed. -/
def AssembledWell (p : DrawCfg × List Instr) : Prop := p.1.tmode ≠ .reserved ∧ ∀ i ∈ p.2, WellFormed i = true

/-- A line that emits one command keeps the directive state. -/
theorem assembledWell_of_instr {c : DrawCfg} (hc : c.tmode ≠ .reserved) {o : Option Instr}
    (ho : ∀ i, o = some i → WellFormed i = true) {p : DrawCfg × List Instr}
    (h : (o.map fun i => (c, [i])) = some p) : AssembledWell p := by
  obtain ⟨i, hi, rfl⟩ := Option.map_eq_some_iff.mp h
  exact ⟨hc, List.forall_mem_singleton.mpr (ho i hi)⟩

/-- A directive emits no command. -/
theorem assembledWell_of_directive {o : Option DrawCfg} (ho : ∀ c, o = some c → c.tmode ≠ .reserved)
    {p : DrawCfg × List Instr} (h : (o.map fun c => (c, [])) = some p) : AssembledWell p := by
  obtain ⟨c, hi, rfl⟩ := Option.map_eq_some_iff.mp h
  exact ⟨ho c hi, by simp⟩

section
variable {c c' : DrawCfg}

theorem asmMask_tmode {a o : Int} (h : asmMask c a o = some c') : c'.tmode = c.tmode := by
  simp only [asmMask, Option.bind_eq_bind, Option.bind_eq_some_iff, Option.pure_def, Option.some.injEq] at h
  obtain ⟨_, -, _, -, rfl⟩ := h
  rfl

theorem asmTpage_tmode {x y : Int} {m : TexMode} (h : asmTpage c x y m = some c') : c'.tmode ≠ .reserved := by
  unfold asmTpage at h
  split at h
  · cases h
  · rename_i hm
    simp only [Option.bind_eq_bind, Option.bind_eq_some_iff, Option.pure_def, Option.some.injEq] at h
    obtain ⟨_, -, _, -, rfl⟩ := h
    exact hm

theorem asmClut_tmode {x y : Int} (h : asmClut c x y = some c') : c'.tmode = c.tmode := by
  simp only [asmClut, Option.bind_eq_bind, Option.bind_eq_some_iff, Option.pure_def, Option.some.injEq] at h
  obtain ⟨_, -, _, -, rfl⟩ := h
  rfl

theorem asmTwin_tmode {ax ay ox oy : Int} (h : asmTwin c ax ay ox oy = some c') : c'.tmode = c.tmode := by
  simp only [asmTwin, Option.bind_eq_bind, Option.bind_eq_some_iff, Option.pure_def, Option.some.injEq] at h
  obtain ⟨_, -, _, -, _, -, _, -, rfl⟩ := h
  rfl

theorem asmIlace_tmode (m : IlaceMode) : (asmIlace c m).tmode = c.tmode := by
  cases m <;> rfl

end

theorem assembledWell_of_asmOne {c : DrawCfg} (hc : c.tmode ≠ .reserved) {l : AsmLine} {p : DrawCfg × List Instr}
    (h : asmOne c l = some p) : AssembledWell p := by
  cases l with
  | setarea => exact assembledWell_of_instr hc (fun _ => wellFormed_of_asmSetarea) h
  | rect => exact assembledWell_of_instr hc (fun _ => wellFormed_of_asmRect hc) h
  | line => exact assembledWell_of_instr hc (fun _ => wellFormed_of_asmLineInstr) h
  | tri => exact assembledWell_of_instr hc (fun _ => wellFormed_of_asmTri hc) h
  | quad => exact assembledWell_of_instr hc (fun _ => wellFormed_of_asmQuad hc) h
  | mask => exact assembledWell_of_directive (fun _ hd => asmMask_tmode hd ▸ hc) h
  | tpage => exact assembledWell_of_directive (fun _ => asmTpage_tmode) h
  | clut => exact assembledWell_of_directive (fun _ hd => asmClut_tmode hd ▸ hc) h
  | twin => exact assembledWell_of_directive (fun _ hd => asmTwin_tmode hd ▸ hc) h
  | blend =>
    obtain rfl := Option.some.inj h
    exact ⟨hc, by simp⟩
  | ilace m =>
    obtain rfl := Option.some.inj h
    exact ⟨(asmIlace_tmode m).trans_ne hc, by simp⟩
  | polyline =>
    obtain ⟨is, his, rfl⟩ := Option.map_eq_some_iff.mp h
    exact ⟨hc, wellFormed_of_asmPolyline his⟩
  | pixel =>
    refine assembledWell_of_instr hc (fun i hi => ?_) h
    unfold asmPixel at hi
    split at hi
    · exact wellFormed_of_asmRect hc hi
    · cases hi
  | ftri =>
    refine assembledWell_of_instr hc (fun i hi => ?_) h
    unfold asmFtri at hi
    split at hi
    · exact wellFormed_of_asmTri hc hi
    · cases hi
  | fquad =>
    refine assembledWell_of_instr hc (fun i hi => ?_) h
    unfold asmFquad at hi
    split at hi
    · exact wellFormed_of_asmQuad hc hi
    · cases hi

theorem wellFormed_of_assembleFrom {c : DrawCfg} (hc : c.tmode ≠ .reserved) {ls : List AsmLine} {is : List Instr}
    (h : assembleFrom c ls = some is) : ∀ i ∈ is, WellFormed i = true := by
  induction ls generalizing c is with
  | nil =>
    obtain rfl := Option.some.inj h
    simp
  | cons l ls ih =>
    simp only [assembleFrom, Option.bind_eq_bind, Option.bind_eq_some_iff, Option.pure_def, Option.some.injEq] at h
    obtain ⟨p, hp, more, hmore, rfl⟩ := h
    obtain ⟨hc', hwell⟩ := assembledWell_of_asmOne hc hp
    exact List.forall_mem_append.mpr ⟨hwell, ih hc' hmore⟩

/-- Settles O20, line by line from the first directive state. -/
theorem assembledCommandsAreWellFormed : Obligations.AssembledCommandsAreWellFormed :=
  fun _ _ h => wellFormed_of_assembleFrom (c := asmInit) (by decide) h

/-! ### How many pixels a command shades (70_reset_and_hazards.md R339) -/

/-- `n` lists of at most `m` entries hold at most `n * m`. -/
theorem length_flatMap_range_le {α : Type} {n m : Nat} {f : Nat → List α} (h : ∀ k, (f k).length ≤ m) :
    ((List.range n).flatMap f).length ≤ n * m := by
  rw [List.length_flatMap]
  have hsum := List.sum_le_card_nsmul ((List.range n).map fun k => (f k).length) m (by simp [h])
  simpa using hsum

theorem length_rectFrags_le (da : DrawArea) (c : DrawCfg) (o : XY) (sz : Size) (col : Color) (uv : UV) :
    (rectFrags da c o sz col uv).length ≤ sz.w.toNat * sz.h.toNat := by
  rw [Nat.mul_comm]
  refine length_flatMap_range_le fun oy => ?_
  unfold rectRow
  dsimp only
  split
  · simp
  · refine (length_flatMap_range_le (m := 1) fun ox => ?_).trans_eq (Nat.mul_one _)
    split <;> simp

theorem length_lineWalk_le (da : DrawArea) (c : DrawCfg) (shade : Bool) (n : Nat) (r : LineRegs) :
    (lineWalk da c shade n r).length ≤ n := by
  induction n generalizing r with
  | zero => simp [lineWalk]
  | succ n ih =>
    unfold lineWalk
    dsimp only
    split
    · exact Nat.succ_le_succ (ih _)
    · exact (ih _).trans (Nat.le_succ n)

theorem length_lineFrags_le (da : DrawArea) (shade : Bool) (c : DrawCfg) (p0 p1 : LineVertex) :
    (lineFrags da shade c p0 p1).length ≤ 1024 := by
  unfold lineFrags
  split
  · simp
  · rename_i hlong
    have hk := lineK_lt_of_not_tooLong (Bool.not_eq_true _ ▸ hlong)
    have hwalk := length_lineWalk_le da c shade ((lineK p0 p1).toNat + 1) (lineSetup shade p0 p1)
    omega

/-! ### The edges of a triangle stay in its columns (43_triangle.md R231, R237) -/

theorem divAway_neg (a b : Int) : divAway (-a) b = -divAway a b := by
  unfold divAway tdiv
  rcases lt_trichotomy a 0 with h | rfl | h
  · rw [if_neg (by omega), if_pos (by omega), if_pos h, ← Int.neg_tdiv]
    congr 1
    omega
  · simp
  · rw [if_pos (by omega), if_neg (by omega), if_pos h, ← Int.neg_tdiv]
    congr 1
    omega

/-- Away from zero, a quotient is at least the exact one and less than one above it. -/
theorem divAway_bounds {a b : Int} (ha : 0 ≤ a) (hb : 0 < b) : 0 ≤ divAway a b ∧ divAway a b * b < a + b := by
  have key {n : Int} (h0 : 0 ≤ n) (hn : n < a + b) : 0 ≤ tdiv n b ∧ tdiv n b * b < a + b := by
    rw [tdiv, Int.tdiv_eq_ediv_of_nonneg h0]
    exact ⟨Int.ediv_nonneg h0 hb.le, (Int.ediv_mul_le n hb.ne').trans_lt hn⟩
  unfold divAway
  rw [if_neg (by omega)]
  split
  · exact key (by omega) (by omega)
  · exact key ha (by omega)

/-- `k` steps of an edge of width `dx ≥ 0` go right, by at most its width and `k` units. -/
theorem mul_xStep_bounds {dx dy k : Int} (hdx : 0 ≤ dx) (h0 : 0 ≤ k) (hk : k ≤ dy) (hdy : 0 < dy) :
    0 ≤ k * xStep dx dy ∧ k * xStep dx dy ≤ dx * 2 ^ 32 + k := by
  obtain ⟨hpos, hlt⟩ := divAway_bounds (a := dx * 2 ^ xyFrac) (by positivity) hdy
  refine ⟨mul_nonneg h0 hpos, ?_⟩
  refine le_of_mul_le_mul_right ?_ hdy
  calc k * xStep dx dy * dy = k * (xStep dx dy * dy) := by ring
    _ ≤ k * (dx * 2 ^ 32 + dy) := mul_le_mul_of_nonneg_left hlt.le h0
    _ ≤ (dx * 2 ^ 32 + k) * dy := by nlinarith [mul_nonneg hdx (sub_nonneg.mpr hk)]

theorem xStep_neg (dx dy : Int) : xStep (-dx) dy = -xStep dx dy := by
  rw [xStep, Int.neg_mul, divAway_neg, xStep]

/-- `k` steps of an edge go at most to its other end, but for `k` units. -/
theorem mul_xStep_between {dx dy k : Int} (h0 : 0 ≤ k) (hk : k ≤ dy) (hdy : 0 < dy) :
    min 0 (dx * 2 ^ 32) - k ≤ k * xStep dx dy ∧ k * xStep dx dy ≤ max 0 (dx * 2 ^ 32) + k := by
  rcases le_total 0 dx with h | h
  · obtain ⟨hlo, hhi⟩ := mul_xStep_bounds h h0 hk hdy
    omega
  · obtain ⟨hlo, hhi⟩ := mul_xStep_bounds (neg_nonneg.mpr h) h0 hk hdy
    rw [xStep_neg, Int.mul_neg] at hlo hhi
    omega

/-- The pixel column of a position lies between `lo` and `hi`. -/
def InColumns (lo hi a : Int) : Prop := lo ≤ asr a xyFrac ∧ asr a xyFrac ≤ hi

/-- A position between `XFP lo` and `XFP hi` but for less than 2^11 units is in the columns `lo` to `hi`: `XFP` keeps
that far from the next column. -/
theorem inColumns_of_bounds {lo hi a k : Int} (hk : k < 2048) (hlo : xfp lo - k ≤ a) (hhi : a ≤ xfp hi + k) :
    InColumns lo hi a := by
  rw [InColumns, ← Int.lt_add_one_iff (b := hi), le_asr_iff, asr_lt_iff]
  unfold xfp xyFrac at *
  omega

/-- An edge stepped `k` rows from one of its ends stays in the columns of its ends. -/
theorem inColumns_of_steps {x dx dy k lo hi : Int} (h0 : 0 ≤ k) (hk : k ≤ dy) (hdy : 0 < dy) (hmax : k < 2048)
    (hx : lo ≤ x ∧ x ≤ hi) (hend : lo ≤ x + dx ∧ x + dx ≤ hi) : InColumns lo hi (xfp x + k * xStep dx dy) := by
  obtain ⟨hlo, hhi⟩ := mul_xStep_between (dx := dx) h0 hk hdy
  refine inColumns_of_bounds hmax ?_ ?_ <;> unfold xfp xyFrac <;> omega

section
variable {xa ya xb yb z lo hi : Int} (ha : lo ≤ xa ∧ xa ≤ hi) (hb : lo ≤ xb ∧ xb ≤ hi) (hz : ya ≤ z) (hz' : z ≤ yb)
  (hrows : 0 < yb - ya) (hmax : yb - ya < 2048)
include ha hb hz hz' hrows hmax

/-- An edge from `(xa, ya)` down to `(xb, yb)`, stepped from its upper end to row `z`. -/
theorem inColumns_from_upper : InColumns lo hi (xfp xa + (z - ya) * xStep (xb - xa) (yb - ya)) :=
  inColumns_of_steps (by omega) (by omega) hrows (by omega) ha (by omega)

/-- The same edge, stepped from its lower end. -/
theorem inColumns_from_lower : InColumns lo hi (xfp xb + (z - yb) * xStep (xb - xa) (yb - ya)) := by
  have hsteps := inColumns_of_steps (k := yb - z) (dx := xa - xb) (by omega) (by omega) hrows (by omega) hb (by omega)
  rwa [← neg_sub xb xa, xStep_neg, ← neg_sub z yb, neg_mul_neg] at hsteps

end

/-! ### The rows of a triangle -/

/-- `SortY` sorts by y (43_triangle.md R233). -/
theorem sortY_rows (a b c : TriVertex) :
    (sortY a b c).v0.y ≤ (sortY a b c).v1.y ∧ (sortY a b c).v1.y ≤ (sortY a b c).v2.y := by
  unfold sortY
  unfold exchangeBC exchangeAB
  dsimp only
  split_ifs <;> dsimp only at * <;> omega

@[simp] theorem length_spanPixels (p : Planes) (row : RowPos) (y : Int) (n : Nat) (x : Int) (a : Acc) :
    (spanPixels p row y n x a).length = n := by
  induction n generalizing x a with
  | zero => rfl
  | succ n ih => rw [spanPixels, List.length_cons, ih]

/-- The clips never widen a span (43_triangle.md R253). -/
theorem spanWidth_le (da : DrawArea) (lc rc : Int) : spanWidth da lc rc ≤ asr rc xyFrac - asr lc xyFrac := by
  unfold spanWidth
  generalize spanStart da lc = x
  dsimp only
  split <;> split <;> omega

section
variable {da : DrawArea} {c : DrawCfg} {p : Planes} {row : RowPos} {ls rs y lc rc : Int} {w : Nat}

theorem length_span_le (h : asr rc xyFrac - asr lc xyFrac ≤ w) : (span da c p row y lc rc).length ≤ w := by
  have hw := spanWidth_le da lc rc
  unfold span
  split
  · simp
  · rw [length_spanPixels]
    omega

theorem length_walkIncrement_le {n : Nat} (h : ∀ z, y ≤ z → z < y + n →
      asr (rc + (z - y) * rs) xyFrac - asr (lc + (z - y) * ls) xyFrac ≤ w) :
    (walkIncrement da c p row ls rs n y lc rc).length ≤ n * w := by
  induction n generalizing y lc rc with
  | zero => simp [walkIncrement]
  | succ n ih =>
    unfold walkIncrement
    split
    · simp
    · have hfirst : asr rc xyFrac - asr lc xyFrac ≤ w := by simpa using h y le_rfl (by omega)
      have hrest := ih (y := y + 1) (lc := lc + ls) (rc := rc + rs) fun z hz hz' => by
        have := h z (by omega) (by omega)
        rwa [show rc + rs + (z - (y + 1)) * rs = rc + (z - y) * rs by ring,
          show lc + ls + (z - (y + 1)) * ls = lc + (z - y) * ls by ring]
      rw [List.length_append, Nat.succ_mul, Nat.add_comm]
      refine Nat.add_le_add hrest ?_
      split
      · exact length_span_le hfirst
      · simp

theorem length_walkDecrement_le {n : Nat} (h : ∀ z, y - n ≤ z → z < y →
      asr (rc + (z - y) * rs) xyFrac - asr (lc + (z - y) * ls) xyFrac ≤ w) :
    (walkDecrement da c p row ls rs n y lc rc).length ≤ n * w := by
  induction n generalizing y lc rc with
  | zero => simp [walkDecrement]
  | succ n ih =>
    unfold walkDecrement
    split
    · simp
    · have hshift (z : Int) (e s : Int) : e - s + (z - (y - 1)) * s = e + (z - y) * s := by ring
      have hfirst := h (y - 1) (by omega) (by omega)
      have hrest := ih (y := y - 1) (lc := lc - ls) (rc := rc - rs) fun z hz hz' => by
        rw [hshift, hshift]
        exact h z (by omega) (by omega)
      rw [← hshift, ← hshift, sub_self, zero_mul, zero_mul, add_zero, add_zero] at hfirst
      rw [List.length_append, Nat.succ_mul, Nat.add_comm]
      refine Nat.add_le_add hrest ?_
      split
      · simp
      · exact length_span_le hfirst

/-- A half whose two edges stay in the columns `lo` to `hi` on its rows shades at most `hi - lo` pixels a row. -/
theorem length_halfFrags_le {h : Half} {lo hi : Int} (hw : hi - lo ≤ w)
    (hl : ∀ z, min h.yc h.yb ≤ z → z < max h.yc h.yb → InColumns lo hi (h.xcL + (z - h.yc) * h.xsL))
    (hr : ∀ z, min h.yc h.yb ≤ z → z < max h.yc h.yb → InColumns lo hi (h.xcR + (z - h.yc) * h.xsR)) :
    (Half.frags da c p row h).length ≤ (h.yb - h.yc).natAbs * w := by
  have hwidth (z : Int) (hz : min h.yc h.yb ≤ z) (hz' : z < max h.yc h.yb) :
      asr (h.xcR + (z - h.yc) * h.xsR) xyFrac - asr (h.xcL + (z - h.yc) * h.xsL) xyFrac ≤ w := by
    have hll := (hl z hz hz').1
    have hrr := (hr z hz hz').2
    omega
  unfold Half.frags
  split
  · refine (length_walkDecrement_le fun z hz hz' => hwidth z ?_ ?_).trans (Nat.mul_le_mul_right w ?_) <;> omega
  · refine (length_walkIncrement_le fun z hz hz' => hwidth z ?_ ?_).trans (Nat.mul_le_mul_right w ?_) <;> omega

theorem length_mkHalf_le {rf dec : Bool} {sx ss lx lstep yc yb lo hi : Int} (hw : hi - lo ≤ w)
    (hs : ∀ z, min yc yb ≤ z → z < max yc yb → InColumns lo hi (sx + (z - yc) * ss))
    (hl : ∀ z, min yc yb ≤ z → z < max yc yb → InColumns lo hi (lx + (z - yc) * lstep)) :
    (Half.frags da c p row (mkHalf rf sx ss lx lstep yc yb dec)).length ≤ (yb - yc).natAbs * w := by
  cases rf with
  | true => exact length_halfFrags_le (h := mkHalf true sx ss lx lstep yc yb dec) hw hl hs
  | false => exact length_halfFrags_le (h := mkHalf false sx ss lx lstep yc yb dec) hw hs hl

end

/-- The long edge at row `y`, stepped to row `z` (43_triangle.md R247, R248). -/
theorem Sorted.longAt_add (s : Sorted) (y z : Int) :
    s.longAt y + (z - y) * s.baseStep = xfp s.v0.x + (z - s.v0.y) * s.baseStep := by
  unfold Sorted.longAt Sorted.baseCoord
  ring

/-- The three vertices lie in the columns `lo` to `hi` and, sorted, on fewer than 2048 rows. -/
structure Sorted.Fits (s : Sorted) (lo hi : Int) : Prop where
  v0   : lo ≤ s.v0.x ∧ s.v0.x ≤ hi
  v1   : lo ≤ s.v1.x ∧ s.v1.x ≤ hi
  v2   : lo ≤ s.v2.x ∧ s.v2.x ≤ hi
  rows : s.v0.y ≤ s.v1.y ∧ s.v1.y ≤ s.v2.y
  tall : s.v2.y - s.v0.y < 2048

section
variable {s : Sorted} {lo hi : Int} (hf : s.Fits lo hi)
include hf

theorem Sorted.Fits.long {y z : Int} (hz : s.v0.y ≤ z) (hz' : z < s.v2.y) :
    InColumns lo hi (s.longAt y + (z - y) * s.baseStep) := by
  rw [s.longAt_add]
  exact inColumns_from_upper hf.v0 hf.v2 hz hz'.le (by omega) hf.tall

variable {da : DrawArea} {c : DrawCfg} {p : Planes} {row : RowPos} {w : Nat} (hw : hi - lo ≤ w)
include hw

/-- A half between the vertices `a` and `b`, walked down from `a` or up from `b`. -/
theorem Sorted.Fits.length_half_le {a b : TriVertex} {step : Int} {dec : Bool} (ha : lo ≤ a.x ∧ a.x ≤ hi)
    (hb : lo ≤ b.x ∧ b.x ≤ hi) (h0 : s.v0.y ≤ a.y) (hab : a.y ≤ b.y) (h2 : b.y ≤ s.v2.y)
    (hstep : a.y < b.y → step = xStep (b.x - a.x) (b.y - a.y)) :
    (Half.frags da c p row (mkHalf s.rf (xfp (if dec then b else a).x) step (s.longAt (if dec then b else a).y)
      s.baseStep (if dec then b else a).y (if dec then a else b).y dec)).length ≤ (b.y - a.y).natAbs * w := by
  have htall := hf.tall
  cases dec
  · refine length_mkHalf_le hw (fun z hz hz' => ?_) fun z hz hz' => ?_
    all_goals simp only [Bool.false_eq_true, if_false] at *
    · rw [hstep (by omega)]
      exact inColumns_from_upper ha hb (by omega) (by omega) (by omega) (by omega)
    · exact hf.long (by omega) (by omega)
  · rw [← Int.natAbs_neg, neg_sub]
    refine length_mkHalf_le hw (fun z hz hz' => ?_) fun z hz hz' => ?_
    all_goals simp only [if_true] at *
    · rw [hstep (by omega)]
      exact inColumns_from_lower ha hb (by omega) (by omega) (by omega) (by omega)
    · exact hf.long (by omega) (by omega)

theorem Sorted.Fits.length_upper_le :
    (Half.frags da c p row s.upper).length ≤ (s.v1.y - s.v0.y).natAbs * w :=
  hf.length_half_le hw hf.v0 hf.v1 le_rfl hf.rows.1 hf.rows.2 fun h => if_neg (by omega)

theorem Sorted.Fits.length_lower_le :
    (Half.frags da c p row s.lower).length ≤ (s.v2.y - s.v1.y).natAbs * w :=
  hf.length_half_le hw hf.v1 hf.v2 hf.rows.1 hf.rows.2 le_rfl fun h => if_neg (by omega)

end

/-- A triangle that is not too large lies on at most 511 rows of at most 1023 pixels (43_triangle.md R236). -/
theorem Sorted.fits_of_not_oversized {s : Sorted} (hrows : s.v0.y ≤ s.v1.y ∧ s.v1.y ≤ s.v2.y)
    (h : s.oversized = false) : s.v2.y - s.v0.y ≤ 511 ∧ ∃ lo hi, s.Fits lo hi ∧ hi - lo ≤ 1023 := by
  simp only [Sorted.oversized, Bool.or_eq_false_iff, decide_eq_false_iff_not, not_le, maxPrimitiveWidth,
    maxPrimitiveHeight] at h
  obtain ⟨⟨⟨h02, h12⟩, h01⟩, htall⟩ := h
  refine ⟨by omega, min s.v0.x (min s.v1.x s.v2.x), max s.v0.x (max s.v1.x s.v2.x), ⟨?_, ?_, ?_, hrows, ?_⟩, ?_⟩ <;>
    omega

theorem length_triangleFrags_le (da : DrawArea) (cfg : DrawCfg) (f : PolyFlags) (second : Bool) (a b c : Vertex) :
    (triangleFrags da cfg f second a b c).length ≤ 511 * 1023 := by
  unfold triangleFrags
  have hrows := sortY_rows (triVertex a) (triVertex b) (triVertex c)
  generalize sortY (triVertex a) (triVertex b) (triVertex c) = s at hrows
  dsimp only
  split
  · simp
  · rename_i hdrop
    simp only [Sorted.dropped, Bool.or_eq_true, not_or, Bool.not_eq_true] at hdrop
    obtain ⟨htall, lo, hi, hf, hw⟩ := Sorted.fits_of_not_oversized hrows hdrop.1.2
    generalize s.planes f.shade f.tex = p
    have hupper (k : Nat) := hf.length_upper_le (da := da) (c := cfg) (p := p) (row := ⟨second, k⟩) (w := 1023) hw
    have hlower (k : Nat) := hf.length_lower_le (da := da) (c := cfg) (p := p) (row := ⟨second, k⟩) (w := 1023) hw
    have hrowsum : (s.v1.y - s.v0.y).natAbs + (s.v2.y - s.v1.y).natAbs ≤ 511 := by omega
    calc _ ≤ (s.v1.y - s.v0.y).natAbs * 1023 + (s.v2.y - s.v1.y).natAbs * 1023 := by
          rw [List.length_append]
          unfold Sorted.half0 Sorted.half1
          cases s.vo
          · exact Nat.add_le_add (hupper 0) (hlower 1)
          · exact (Nat.add_le_add (hlower 0) (hupper 1)).trans_eq (Nat.add_comm _ _)
      _ ≤ 511 * 1023 := by omega

/-- Settles O34. -/
theorem pixelStepsAreBounded : Obligations.PixelStepsAreBounded := by
  unfold Obligations.PixelStepsAreBounded
  intro p da i
  cases i with
  | rect f c o sz col uv => exact length_rectFrags_le da c o sz col uv
  | line f c p0 p1 => exact length_lineFrags_le da f.shade c p0 p1
  | tri f c v0 v1 v2 => exact length_triangleFrags_le da c f false v0 v1 v2
  | quad f c v0 v1 v2 v3 =>
    have h0 := length_triangleFrags_le da c f false v0 v1 v2
    have h1 := length_triangleFrags_le da c f true (quadSecond p.quadOrder v1 v2 v3).1
      (quadSecond p.quadOrder v1 v2 v3).2.1 (quadSecond p.quadOrder v1 v2 v3).2.2
    change (quadFrags da c f p.quadOrder v0 v1 v2 v3).length ≤ _
    rw [quadFrags, List.length_append]
    omega
  | setarea => rfl

/-! ### Fields that the effective flags ignore (30_encoding.md R115) -/

/-- A shader call as the shader reads it: the texture coordinates only under TEX. -/
def Frag.read (tex : Bool) (f : Frag) : Frag := if tex then f else { f with u := 0, v := 0 }

theorem Frag.read_false (f : Frag) : f.read false = { f with u := 0, v := 0 } := rfl

@[simp] theorem Frag.read_pos (tex : Bool) (f : Frag) : (f.read tex).pos = f.pos := by cases tex <;> rfl

@[simp] theorem Frag.read_x (tex : Bool) (f : Frag) : (f.read tex).x = f.x := by cases tex <;> rfl

@[simp] theorem Frag.read_y (tex : Bool) (f : Frag) : (f.read tex).y = f.y := by cases tex <;> rfl

theorem shadeMem_read (sh : Shader) (m : Memory) (f : Frag) : shadeMem sh m (f.read sh.eff.tex) = shadeMem sh m f := by
  cases ht : sh.eff.tex with
  | true => rfl
  | false =>
    unfold shadeMem pixelWord
    rw [foreground_untextured ht, foreground_untextured ht]
    rfl

theorem drawFrags_read (k : Kind) (sh : Shader) (fs : List Frag) (s : State) :
    drawFrags k sh (fs.map (Frag.read sh.eff.tex)) s = drawFrags k sh fs s := by
  induction fs generalizing s with
  | nil => rfl
  | cons f fs ih => simp only [List.map_cons, drawFrags, shadeMem_read, Frag.read_pos, Frag.read_x, Frag.read_y, ih]

/-- Two draws of one kind are alike when their shaders give every pixel the same word and read the same of their pixels:
nothing else of the commands is read. -/
theorem execDraw_congr {i i' : Instr} {sh sh' : Shader} {fs fs' : List Frag} {s : State} (hr : s.ready = true)
    (hw : WellFormed i = true) (hw' : WellFormed i' = true) (hk : i.kind = i'.kind)
    (hsh : pixelWord sh = pixelWord sh') (hfs : fs.map (Frag.read sh.eff.tex) = fs'.map (Frag.read sh.eff.tex)) :
    execDraw i sh fs s = execDraw i' sh' fs' s := by
  have hall : shadeAll sh = shadeAll sh' := by
    have hone : shadeMem sh = shadeMem sh' := by
      funext m f
      rw [shadeMem, shadeMem, hsh]
    funext m fs
    rw [shadeAll, shadeAll, hone]
  have hpixels : execDraw i sh fs s = execDraw i sh fs' s := by
    unfold execDraw
    rw [← drawFrags_read _ _ fs, hfs, drawFrags_read]
  rw [hpixels]
  simp only [State.ready, Bool.and_eq_true, decide_eq_true_eq] at hr
  obtain ⟨hs, hd⟩ := hr
  rcases allInside_or_first_outside fs' with hin | ⟨pre, g, post, rfl, hin, hout⟩
  · rw [execDraw_completes hs hd hw hin, execDraw_completes hs hd hw' hin, hall]
  · rw [execDraw_faults hs hd hw hin hout, execDraw_faults hs hd hw' hin hout, hall, hk]

section
variable {e : EffFlags} {c c' : DrawCfg} (h : SameEffectiveCfg e c c')
include h

theorem SameEffectiveCfg.interlaced_eq : interlaced c = interlaced c' := by
  obtain ⟨-, -, hilace, halsb, -⟩ := h
  funext y
  unfold interlaced
  rw [← hilace]
  cases hi : c.ilace with
  | false => rfl
  | true => rw [halsb hi]

/-- A fetch under TEX reads only what the two agree on: the direct mode reads no palette. -/
theorem SameEffectiveCfg.fetchTexel_eq (ht : e.tex = true) (m : Memory) (u v : Byte) :
    fetchTexel c m (windowU c u) (windowV c v) = fetchTexel c' m (windowU c' u) (windowV c' v) := by
  obtain ⟨-, -, -, -, -, -, htex⟩ := h
  obtain ⟨hmode, hpx, hpy, hax, hay, hox, hoy, hclut⟩ := htex ht
  unfold fetchTexel windowU windowV pageCoord clutCoord
  rw [← hmode, ← hpx, ← hpy, ← hax, ← hay, ← hox, ← hoy]
  by_cases hd : c.tmode = .direct15
  · rw [hd]
  · rw [(hclut hd).1, (hclut hd).2]

theorem SameEffectiveCfg.foreground_eq (d : DitherMatrix) (m : Memory) (f : Frag) :
    foreground ⟨e, c, d⟩ m f = foreground ⟨e, c', d⟩ m f := by
  cases ht : e.tex with
  | false => rw [foreground_untextured ht, foreground_untextured ht]
  | true => simp only [foreground, h.fetchTexel_eq ht]

theorem SameEffectiveCfg.blended_eq (d : DitherMatrix) (fg bg : Pixel) :
    blended ⟨e, c, d⟩ fg bg = blended ⟨e, c', d⟩ fg bg := by
  obtain ⟨-, hbmode, -⟩ := h
  unfold blended
  cases ht : e.trans with
  | false => rfl
  | true => simp only [hbmode ht]

theorem SameEffectiveCfg.pixelWord_eq (d : DitherMatrix) : pixelWord ⟨e, c, d⟩ = pixelWord ⟨e, c', d⟩ := by
  have ⟨_, _, _, _, hand, hor, _⟩ := h
  funext m f
  unfold pixelWord
  simp only [h.foreground_eq d, h.blended_eq d, hand, hor]

end

/-! The pixels of a command depend on its configuration through the interlace alone. -/

section
variable {c c' : DrawCfg} (h : interlaced c = interlaced c') (da : DrawArea)
include h

theorem map_read_rectFrags {tex : Bool} {uv uv' : UV} (huv : tex = true → uv = uv') (o : XY) (sz : Size) (col : Color) :
    (rectFrags da c o sz col uv).map (Frag.read tex) = (rectFrags da c' o sz col uv').map (Frag.read tex) := by
  unfold rectFrags rectRow
  rw [h]
  cases tex with
  | true => rw [huv rfl]
  | false =>
    simp only [List.map_flatMap, apply_ite (List.map (Frag.read false))]
    rfl

theorem lineWalk_congr_cfg (shade : Bool) (n : Nat) (r : LineRegs) :
    lineWalk da c shade n r = lineWalk da c' shade n r := by
  induction n generalizing r with
  | zero => rfl
  | succ n ih =>
    unfold lineWalk linePixelDrawn
    rw [h, ih]

end

/-! ### The second endpoint's colour of a flat line that is not swapped (42_line.md R202, R206) -/

/-- The registers with another second endpoint. -/
def LineRegs.withEnd (r : LineRegs) (p : LineVertex) : LineRegs := { r with lp1 := p }

/-- The walk of a line does not read its second endpoint again. -/
theorem lineWalk_withEnd (da : DrawArea) (c : DrawCfg) (shade : Bool) (n : Nat) (r : LineRegs) (p : LineVertex) :
    lineWalk da c shade n (r.withEnd p) = lineWalk da c shade n r := by
  induction n generalizing r with
  | zero => rfl
  | succ n ih =>
    have hrest : lineWalk da c shade n (r.withEnd p).advance = lineWalk da c shade n r.advance := ih r.advance
    unfold lineWalk
    rw [hrest]
    rfl

theorem lineK_congr {p0 p1 p1' : LineVertex} (h : p1.pos = p1'.pos) : lineK p0 p1 = lineK p0 p1' := by
  unfold lineK lineDx lineDy
  rw [h]

/-- A line that goes right, or has length 0, is not swapped. -/
theorem canonical_of_not_swapped {p0 p1 : LineVertex} (h : p0.pos.xInt < p1.pos.xInt ∨ p0.pos = p1.pos) :
    canonical p0 p1 = (p0, p1) := by
  refine if_neg fun hswap => ?_
  rcases h with h | h
  · omega
  · have hk : lineK p0 p1 = 0 := by simp [lineK, lineDx, lineDy, h]
    omega

theorem lineSetup_flat {p0 p1 p1' : LineVertex} (hpos : p1.pos = p1'.pos)
    (h : p0.pos.xInt < p1.pos.xInt ∨ p0.pos = p1.pos) :
    lineSetup false p0 p1' = (lineSetup false p0 p1).withEnd p1' := by
  have h' : p0.pos.xInt < p1'.pos.xInt ∨ p0.pos = p1'.pos := by rwa [← hpos]
  unfold lineSetup
  rw [canonical_of_not_swapped h, canonical_of_not_swapped h', lineK_congr hpos]
  dsimp only
  rw [hpos]
  rfl

theorem lineFrags_congr {da : DrawArea} {c c' : DrawCfg} {shade : Bool} {p0 p1 p1' : LineVertex}
    (hc : interlaced c = interlaced c') (hpos : p1.pos = p1'.pos)
    (hcol : p1.color = p1'.color ∨ (shade = false ∧ (p0.pos.xInt < p1.pos.xInt ∨ p0.pos = p1.pos))) :
    lineFrags da shade c p0 p1 = lineFrags da shade c' p0 p1' := by
  have hlong : lineTooLong p0 p1 = lineTooLong p0 p1' := by unfold lineTooLong lineDx lineDy; rw [hpos]
  unfold lineFrags
  rw [hlong, lineK_congr hpos, lineWalk_congr_cfg hc]
  rcases hcol with hcol | ⟨rfl, hflat⟩
  · obtain ⟨pos, col⟩ := p1
    cases hpos
    cases hcol
    rfl
  · rw [lineSetup_flat hpos hflat, lineWalk_withEnd]

/-! ### The texture coordinates of an untextured polygon -/

/-- A vertex record as the engine reads it: the texture coordinates only under TEX. -/
def TriVertex.read (tex : Bool) (v : TriVertex) : TriVertex := if tex then v else { v with u := 0, v := 0 }

def Sorted.read (tex : Bool) (s : Sorted) : Sorted := ⟨s.v0.read tex, s.v1.read tex, s.v2.read tex, s.cvm⟩

@[simp] theorem TriVertex.read_x (tex : Bool) (v : TriVertex) : (v.read tex).x = v.x := by cases tex <;> rfl

@[simp] theorem TriVertex.read_y (tex : Bool) (v : TriVertex) : (v.read tex).y = v.y := by cases tex <;> rfl

theorem triVertex_read_eq {tex : Bool} {v w : Vertex} (h : SameEffectiveVertex tex v w) :
    (triVertex v).read tex = (triVertex w).read tex := by
  obtain ⟨hpos, hcol, huv⟩ := h
  unfold TriVertex.read triVertex
  rw [hpos, hcol]
  cases tex with
  | true => rw [huv rfl]
  | false => rfl

theorem exchangeBC_read (tex : Bool) (s : Sorted) : exchangeBC (s.read tex) = (exchangeBC s).read tex := by
  unfold exchangeBC
  rw [apply_ite (Sorted.read tex)]
  simp [Sorted.read]

theorem exchangeAB_read (tex : Bool) (s : Sorted) : exchangeAB (s.read tex) = (exchangeAB s).read tex := by
  unfold exchangeAB
  rw [apply_ite (Sorted.read tex)]
  simp [Sorted.read]

theorem sortY_read (tex : Bool) (a b c : TriVertex) :
    sortY (a.read tex) (b.read tex) (c.read tex) = (sortY a b c).read tex := by
  unfold sortY
  rw [← exchangeBC_read, ← exchangeAB_read, ← exchangeBC_read]
  simp [Sorted.read]

theorem Sorted.read_dropped (tex : Bool) (s : Sorted) : (s.read tex).dropped = s.dropped := by cases tex <;> rfl

theorem Sorted.read_vo (tex : Bool) (s : Sorted) : (s.read tex).vo = s.vo := rfl

theorem Sorted.read_vp (tex : Bool) (s : Sorted) : (s.read tex).vp = s.vp := rfl

theorem Sorted.read_upper (tex : Bool) (s : Sorted) : (s.read tex).upper = s.upper := by
  unfold Sorted.upper
  rw [Sorted.read_vo]
  cases tex <;> cases s.vo <;> rfl

theorem Sorted.read_lower (tex : Bool) (s : Sorted) : (s.read tex).lower = s.lower := by
  unfold Sorted.lower
  rw [Sorted.read_vp]
  cases tex <;> cases s.vp <;> rfl

theorem Sorted.read_half0 (tex : Bool) (s : Sorted) : (s.read tex).half0 = s.half0 := by
  rw [Sorted.half0, Sorted.read_vo, Sorted.read_lower, Sorted.read_upper, Sorted.half0]

theorem Sorted.read_half1 (tex : Bool) (s : Sorted) : (s.read tex).half1 = s.half1 := by
  rw [Sorted.half1, Sorted.read_vo, Sorted.read_lower, Sorted.read_upper, Sorted.half1]

theorem Sorted.read_coreVertex (tex : Bool) (s : Sorted) : (s.read tex).coreVertex = s.coreVertex.read tex := by
  unfold Sorted.coreVertex
  simp only [apply_ite (TriVertex.read tex)]
  rfl

/-- `CALCIS` reads the vertices through its two coordinates. -/
theorem Sorted.read_calcis (tex : Bool) (s : Sorted) {i j : TriVertex → Int}
    (hi : ∀ v : TriVertex, i (v.read tex) = i v) (hj : ∀ v : TriVertex, j (v.read tex) = j v) :
    (s.read tex).calcis i j = s.calcis i j := by
  unfold Sorted.calcis Sorted.read
  simp only [hi, hj]

/-- The colours' planes do not read the texture coordinates. -/
theorem Sorted.read_plane (tex shade : Bool) (s : Sorted) {a : TriVertex → Byte}
    (ha : ∀ v : TriVertex, a (v.read tex) = a v) : (s.read tex).plane shade a = s.plane shade a := by
  have hattr (v : TriVertex) : byteInt (a (v.read tex)) = byteInt (a v) := by rw [ha]
  have hx := TriVertex.read_x tex
  have hy := TriVertex.read_y tex
  unfold Sorted.plane Sorted.den
  simp only [s.read_coreVertex, s.read_calcis tex (i := fun w => byteInt (a w)) hattr hy,
    s.read_calcis tex (j := fun w => byteInt (a w)) hx hattr, s.read_calcis tex hx hy, ha, hx, hy]

theorem Sorted.plane_congr {tex : Bool} {s s' : Sorted} (h : s.read tex = s'.read tex) (shade : Bool)
    {a : TriVertex → Byte} (ha : ∀ v : TriVertex, a (v.read tex) = a v) : s.plane shade a = s'.plane shade a := by
  rw [← s.read_plane tex shade ha, h, s'.read_plane tex shade ha]

/-- Two triangles' planes agree on the colours, and under TEX on the texture coordinates too. -/
structure SamePlanes (tex : Bool) (p p' : Planes) : Prop where
  r  : p.r = p'.r
  g  : p.g = p'.g
  b  : p.b = p'.b
  uv : tex = true → p = p'

theorem Sorted.samePlanes {tex : Bool} {s s' : Sorted} (h : s.read tex = s'.read tex) (shade : Bool) :
    SamePlanes tex (s.planes shade tex) (s'.planes shade tex) where
  r := Sorted.plane_congr h shade fun v => by cases tex <;> rfl
  g := Sorted.plane_congr h shade fun v => by cases tex <;> rfl
  b := Sorted.plane_congr h shade fun v => by cases tex <;> rfl
  uv := by
    rintro rfl
    exact congrArg (fun s : Sorted => s.planes shade true) (show s = s' from h)

section
variable {c c' : DrawCfg} {p p' : Planes} (da : DrawArea) (row : RowPos)

theorem map_read_false_spanPixels (hr : p.r = p'.r) (hg : p.g = p'.g) (hb : p.b = p'.b) (y : Int) (n : Nat) (x : Int)
    {a a' : Acc} (har : a.r = a'.r) (hag : a.g = a'.g) (hab : a.b = a'.b) :
    (spanPixels p row y n x a).map (Frag.read false) = (spanPixels p' row y n x a').map (Frag.read false) := by
  induction n generalizing x a a' with
  | zero => rfl
  | succ n ih =>
    have hrest := ih (x + 1) (a := a.advance p) (a' := a'.advance p') (by simp only [Acc.advance, har, hr])
      (by simp only [Acc.advance, hag, hg]) (by simp only [Acc.advance, hab, hb])
    simp only [spanPixels, List.map_cons, hrest, Frag.read_false, har, hag, hab]

variable {tex : Bool} (hc : interlaced c = interlaced c') (hp : SamePlanes tex p p')
include hc hp

theorem map_read_span (y lc rc : Int) :
    (span da c p row y lc rc).map (Frag.read tex) = (span da c' p' row y lc rc).map (Frag.read tex) := by
  unfold span
  rw [hc]
  cases tex with
  | true => rw [hp.uv rfl]
  | false =>
    split
    · rfl
    · apply map_read_false_spanPixels row hp.r hp.g hp.b
      all_goals simp only [Planes.acc, hp.r, hp.g, hp.b]

theorem map_read_walkIncrement (ls rs : Int) (n : Nat) (y lc rc : Int) :
    (walkIncrement da c p row ls rs n y lc rc).map (Frag.read tex) =
      (walkIncrement da c' p' row ls rs n y lc rc).map (Frag.read tex) := by
  induction n generalizing y lc rc with
  | zero => rfl
  | succ n ih =>
    unfold walkIncrement
    split
    · rfl
    · rw [List.map_append, List.map_append, ih]
      split
      · rw [map_read_span da row hc hp]
      · rfl

theorem map_read_walkDecrement (ls rs : Int) (n : Nat) (y lc rc : Int) :
    (walkDecrement da c p row ls rs n y lc rc).map (Frag.read tex) =
      (walkDecrement da c' p' row ls rs n y lc rc).map (Frag.read tex) := by
  induction n generalizing y lc rc with
  | zero => rfl
  | succ n ih =>
    unfold walkDecrement
    split
    · rfl
    · rw [List.map_append, List.map_append, ih]
      split
      · rfl
      · rw [map_read_span da row hc hp]

theorem map_read_halfFrags (hf : Half) :
    (Half.frags da c p row hf).map (Frag.read tex) = (Half.frags da c' p' row hf).map (Frag.read tex) := by
  unfold Half.frags
  split
  · exact map_read_walkDecrement da row hc hp _ _ _ _ _ _
  · exact map_read_walkIncrement da row hc hp _ _ _ _ _ _

end

/-- Triangles that agree on what their effective flags read have the same pixels, as the shader reads them. -/
theorem map_read_triangleFrags {f f' : PolyFlags} {c c' : DrawCfg} {v0 v1 v2 w0 w1 w2 : Vertex} (da : DrawArea)
    (second : Bool) (hc : interlaced c = interlaced c') (hshade : f.shade = f'.shade) (htex : f.tex = f'.tex)
    (h0 : SameEffectiveVertex f.tex v0 w0) (h1 : SameEffectiveVertex f.tex v1 w1)
    (h2 : SameEffectiveVertex f.tex v2 w2) :
    (triangleFrags da c f second v0 v1 v2).map (Frag.read f.tex) =
      (triangleFrags da c' f' second w0 w1 w2).map (Frag.read f.tex) := by
  have hsort : (sortY (triVertex v0) (triVertex v1) (triVertex v2)).read f.tex =
      (sortY (triVertex w0) (triVertex w1) (triVertex w2)).read f.tex := by
    rw [← sortY_read, ← sortY_read, triVertex_read_eq h0, triVertex_read_eq h1, triVertex_read_eq h2]
  unfold triangleFrags
  generalize sortY (triVertex v0) (triVertex v1) (triVertex v2) = s at hsort
  generalize sortY (triVertex w0) (triVertex w1) (triVertex w2) = s' at hsort
  have hp := Sorted.samePlanes hsort f.shade
  rw [← hshade, ← htex]
  dsimp only
  rw [← s.read_dropped f.tex, ← s.read_half0 f.tex, ← s.read_half1 f.tex, hsort, s'.read_dropped, s'.read_half0,
    s'.read_half1]
  split
  · rfl
  · rw [List.map_append, List.map_append, map_read_halfFrags da _ hc hp, map_read_halfFrags da _ hc hp]

theorem map_read_quadFrags {f f' : PolyFlags} {c c' : DrawCfg} {v0 v1 v2 v3 w0 w1 w2 w3 : Vertex} (da : DrawArea)
    (o : QuadOrder) (hc : interlaced c = interlaced c') (hshade : f.shade = f'.shade) (htex : f.tex = f'.tex)
    (h0 : SameEffectiveVertex f.tex v0 w0) (h1 : SameEffectiveVertex f.tex v1 w1)
    (h2 : SameEffectiveVertex f.tex v2 w2) (h3 : SameEffectiveVertex f.tex v3 w3) :
    (quadFrags da c f o v0 v1 v2 v3).map (Frag.read f.tex) =
      (quadFrags da c' f' o w0 w1 w2 w3).map (Frag.read f.tex) := by
  unfold quadFrags
  rw [List.map_append, List.map_append, map_read_triangleFrags da false hc hshade htex h0 h1 h2]
  cases o with
  | o123 => rw [quadSecond, quadSecond, map_read_triangleFrags da true hc hshade htex h1 h2 h3]
  | o213 => rw [quadSecond, quadSecond, map_read_triangleFrags da true hc hshade htex h2 h1 h3]

/-- Settles O30, draw kind by draw kind: the shader gives every pixel the same word, and the pixels are the same as the
shader reads them. -/
theorem ignoredFieldsDrawTheSamePixels : Obligations.IgnoredFieldsDrawTheSamePixels := by
  unfold Obligations.IgnoredFieldsDrawTheSamePixels
  intro s hr
  have hpoly {f f' : PolyFlags} {c c' : DrawCfg}
      (he : polyEff s.params.untexTriDither f c = polyEff s.params.untexTriDither f' c') :
      f.shade = f'.shade ∧ f.tex = f'.tex := ⟨congrArg EffFlags.shade he, congrArg EffFlags.tex he⟩
  refine ⟨?_, ?_, ?_, ?_⟩
  · intro f f' c c' o sz col uv uv' he hc huv hw hw'
    refine execDraw_congr hr hw hw' rfl ?_ (map_read_rectFrags hc.interlaced_eq s.da huv o sz col)
    rw [rectShader, rectShader, ← he]
    exact hc.pixelWord_eq _
  · intro f f' c c' p0 p1 p1' he hc hpos hcol
    have hshade : f.shade = f'.shade := congrArg EffFlags.shade he
    refine execDraw_congr hr rfl rfl rfl ?_ ?_
    · rw [lineShader, lineShader, ← he]
      exact hc.pixelWord_eq _
    · rw [← hshade, lineFrags_congr hc.interlaced_eq hpos hcol]
  · intro f f' c c' v0 v1 v2 w0 w1 w2 he hc h0 h1 h2 hw hw'
    obtain ⟨hshade, htex⟩ := hpoly he
    refine execDraw_congr hr hw hw' rfl ?_ (map_read_triangleFrags s.da false hc.interlaced_eq hshade htex h0 h1 h2)
    rw [polyShader, polyShader, ← he]
    exact hc.pixelWord_eq _
  · intro f f' c c' v0 v1 v2 v3 w0 w1 w2 w3 he hc h0 h1 h2 h3 hw hw'
    obtain ⟨hshade, htex⟩ := hpoly he
    refine execDraw_congr hr hw hw' rfl ?_ (map_read_quadFrags s.da _ hc.interlaced_eq hshade htex h0 h1 h2 h3)
    rw [polyShader, polyShader, ← he]
    exact hc.pixelWord_eq _

end Sys2Proof.Machine

/-!
SUPPORT. The proofs of the family "pixel shader" (40_pixel_shader.md): the word a pixel is given, draws of zero texels and
draws that do not read VRAM, the blends channel by channel, and the packed colours.
-/

namespace Sys2Proof.Machine

open Sys2Proof.Config

/-! ### The word a pixel is given (40_pixel_shader.md R145 to R157) -/

/-- A pixel that is not masked is given its blended colour with `MASK_OR` (40_pixel_shader.md R157). -/
theorem pixelWord_of_foreground {sh : Shader} {m : Memory} {f : Frag} {fg : Pixel} (hfg : foreground sh m f = some fg)
    (hmask : m.vread f.x.toNat f.y.toNat &&& sh.cfg.maskAnd = 0) :
    pixelWord sh m f = some (blended sh fg (m.vread f.x.toNat f.y.toNat) ||| sh.cfg.maskOr) := by
  rcases pixelWord_cases sh m f with ⟨hnone, -⟩ | ⟨fg', hfg', ⟨hne, -⟩ | ⟨-, hp⟩⟩
  · rw [hfg] at hnone
    cases hnone
  · exact absurd hmask hne
  · rw [hfg] at hfg'
    cases hfg'
    exact hp

/-- A pixel without a foreground colour is dropped (40_pixel_shader.md R145). -/
theorem pixelWord_of_foreground_none {sh : Shader} {m : Memory} {f : Frag} (h : foreground sh m f = none) :
    pixelWord sh m f = none := by
  unfold pixelWord
  rw [h]

/-- A zero texel gives no foreground (40_pixel_shader.md R145). -/
theorem foreground_of_texel_zero {sh : Shader} {m : Memory} {f : Frag} (ht : sh.eff.tex = true)
    (h0 : fetchTexel sh.cfg m (windowU sh.cfg f.u) (windowV sh.cfg f.v) = 0) : foreground sh m f = none := by
  unfold foreground
  rw [if_pos ht, if_pos h0]

/-- Any other texel gives itself or, not raw, the modulated texel (40_pixel_shader.md R147, R148). -/
theorem foreground_of_texel_ne_zero {sh : Shader} {m : Memory} {f : Frag} {texel : Pixel} (ht : sh.eff.tex = true)
    (hfetch : texel = fetchTexel sh.cfg m (windowU sh.cfg f.u) (windowV sh.cfg f.v)) (hne : texel ≠ 0) :
    foreground sh m f =
      some (if sh.eff.raw then texel
        else modulate (ditherLut sh.dither (ditherCoord sh.eff.dith f.x f.y).1 (ditherCoord sh.eff.dith f.x f.y).2)
          texel f.r f.g f.b) := by
  subst hfetch
  unfold foreground
  rw [if_pos ht, if_neg hne]
  split <;> rfl

/-- Without TRANS nothing blends (40_pixel_shader.md R151). -/
theorem blended_of_not_trans {sh : Shader} (h : sh.eff.trans = false) (fg bg : Pixel) : blended sh fg bg = fg := by
  simp [blended, h]

/-- Under TRANS an untextured colour blends and its bit 15 is cleared (40_pixel_shader.md R151, R156). -/
theorem blended_untextured {sh : Shader} (ht : sh.eff.tex = false) (h : sh.eff.trans = true) (fg bg : Pixel) :
    blended sh fg bg = blend sh.cfg.bmode fg bg &&& 0x7FFF := by
  simp [blended, ht, h]

/-- Under TRANS a textured colour blends exactly when its bit 15 is set (40_pixel_shader.md R151). -/
theorem blended_textured {sh : Shader} (ht : sh.eff.tex = true) (h : sh.eff.trans = true) (fg bg : Pixel) :
    blended sh fg bg = if maskBit fg then blend sh.cfg.bmode fg bg else fg := by
  simp [blended, ht, h]

/-- The dither coordinate on numbers (40_pixel_shader.md R146). -/
theorem ditherCoord_eq (dith : Bool) (x y : Int) :
    ditherCoord dith x y = (if dith then (y % 4).toNat else 2, if dith then (x % 4).toNat else 3) := by
  cases dith <;> rfl

@[simp] theorem maskBit_or (a b : Pixel) : maskBit (a ||| b) = (maskBit a || maskBit b) := BitVec.getLsbD_or

theorem maskBit_and_low (a : Pixel) : maskBit (a &&& 0x7FFF) = false := by
  rw [maskBit, BitVec.getLsbD_and, Bool.and_eq_false_iff]
  exact .inr rfl

/-- The bit 15 of an untextured pixel's colour is clear, blended or not (40_pixel_shader.md R156). -/
theorem maskBit_blended_untextured {sh : Shader} (ht : sh.eff.tex = false) (lut : Nat → BitVec 5) (r g b : Byte)
    (bg : Pixel) : maskBit (blended sh (flatColor lut sh.eff.trans r g b) bg) = false := by
  cases h : sh.eff.trans with
  | false => rw [blended_of_not_trans h, maskBit_flatColor]
  | true => rw [blended_untextured ht h, maskBit_and_low]

/-- The word of an untextured pixel has the bit 15 of `MASK_OR`. -/
theorem maskBit_of_pixelWord_untextured {sh : Shader} {m : Memory} {f : Frag} {w : Pixel} (ht : sh.eff.tex = false)
    (hw : pixelWord sh m f = some w) : maskBit w = maskBit sh.cfg.maskOr := by
  rcases pixelWord_cases sh m f with ⟨-, hp⟩ | ⟨fg, hfg, ⟨-, hp⟩ | ⟨-, hp⟩⟩
  · rw [hp] at hw
    cases hw
  · rw [hp] at hw
    cases hw
  · rw [foreground_untextured ht] at hfg
    cases hfg
    rw [hp] at hw
    cases hw
    rw [maskBit_or, maskBit_blended_untextured ht, Bool.false_or]

/-- Settles O38: the mask test and the zero texel drop the pixel, and each other form is its foreground, blended. -/
theorem untexturedWordsKeepBit15Clear : Obligations.UntexturedWordsKeepBit15Clear := by
  unfold Obligations.UntexturedWordsKeepBit15Clear
  intro sh m f
  refine ⟨fun w ht hw => maskBit_of_pixelWord_untextured ht hw, ?_⟩
  intro bg texel colour lut hbg htexel hlut hcolour
  have hlut' : ditherLut sh.dither (ditherCoord sh.eff.dith f.x f.y).1 (ditherCoord sh.eff.dith f.x f.y).2 = lut := by
    rw [hlut, ditherCoord_eq]
  subst hbg
  refine ⟨pixelWord_of_masked, ?_, ?_, ?_⟩
  · intro ht h0
    exact pixelWord_of_foreground_none (foreground_of_texel_zero ht (htexel ▸ h0))
  · intro hmask ht hne
    have hfg := foreground_of_texel_ne_zero ht htexel hne
    rw [hlut', ← hcolour] at hfg
    have hbit : maskBit colour = maskBit texel := by
      rw [hcolour]
      split
      · rfl
      · exact maskBit_modulate ..
    rw [pixelWord_of_foreground hfg hmask]
    constructor
    · intro hclear
      cases htrans : sh.eff.trans with
      | false => rw [blended_of_not_trans htrans]
      | true =>
        have h15 : maskBit texel = false := hclear.resolve_left (by simp [htrans])
        simp [blended_textured ht htrans, hbit, h15]
    · intro htrans h15
      simp [blended_textured ht htrans, hbit, h15]
  · intro hmask ht
    have hfg := foreground_untextured ht m f
    rw [hlut'] at hfg
    rw [pixelWord_of_foreground hfg hmask]
    constructor <;> intro htrans
    · rw [blended_of_not_trans htrans, htrans]
    · rw [blended_untextured ht htrans, htrans]

/-! ### Draws of zero texels -/

/-- Pixels that each fetch the texel 0 leave VRAM, so the next one fetches from the same VRAM. -/
theorem shadeAll_of_texels_zero {sh : Shader} {m : Memory} {fs : List Frag} (ht : sh.eff.tex = true)
    (h0 : ∀ f ∈ fs, fetchTexel sh.cfg m (windowU sh.cfg f.u) (windowV sh.cfg f.v) = 0) : shadeAll sh m fs = m := by
  induction fs with
  | nil => rfl
  | cons f fs ih =>
    rw [List.forall_mem_cons] at h0
    have hf : shadeMem sh m f = m := by
      unfold shadeMem
      rw [pixelWord_of_foreground_none (foreground_of_texel_zero ht h0.1)]
    rw [shadeAll_cons, hf, ih h0.2]

/-- Settles O31: all the pixels lie in VRAM, so the draw completes, and none writes. -/
theorem zeroTexelsDrawNothing : Obligations.ZeroTexelsDrawNothing := by
  unfold Obligations.ZeroTexelsDrawNothing
  intro i c s hc hready hw ht hfs
  obtain ⟨hseq, hset⟩ : s.seq = .idle ∧ s.da.set = true := by simpa [State.ready] using hready
  have hmem : shadeAll (shaderOf i s.params c) s.mem (fragsOf s.params s.da i) = s.mem :=
    shadeAll_of_texels_zero ht fun f hf => (hfs f hf).2
  rw [exec_draw s hc, execDraw_completes hseq hset hw fun f hf => (hfs f hf).1, hmem]

/-! ### Draws that do not read VRAM -/

/-- An untextured opaque draw that masks nothing writes a word that VRAM has no part in (40_pixel_shader.md R149,
R157). -/
theorem pixelWord_opaque {sh : Shader} (ht : sh.eff.tex = false) (htrans : sh.eff.trans = false)
    (hand : sh.cfg.maskAnd = 0) (m : Memory) (f : Frag) :
    pixelWord sh m f =
      some (flatColor (ditherLut sh.dither (ditherCoord sh.eff.dith f.x f.y).1 (ditherCoord sh.eff.dith f.x f.y).2)
        false f.r f.g f.b ||| sh.cfg.maskOr) := by
  rw [pixelWord_of_foreground (foreground_untextured ht m f) (by rw [hand]; exact BitVec.and_zero),
    blended_of_not_trans htrans, htrans]

section

variable {sh : Shader} {fs : List Frag} {x y : Nat} (hx : x < vramWidth) (hin : ∀ f ∈ fs, inVram f.x f.y = true)
  (hconst : ∀ f : Frag, ∃ w, ∀ m, pixelWord sh m f = some w)
include hx hin hconst

/-- Where the pixels' words do not depend on VRAM, a word that a pixel names does not depend on the VRAM before. -/
theorem shadeAll_vread_of_named {m m' : Memory} (hm : m.wf = true) (hm' : m'.wf = true)
    (h : ∃ f ∈ fs, f.x = (x : Int) ∧ f.y = (y : Int)) :
    (shadeAll sh m fs).vread x y = (shadeAll sh m' fs).vread x y := by
  induction fs generalizing m m' with
  | nil => simp at h
  | cons f fs ih =>
    rw [List.forall_mem_cons] at hin
    obtain ⟨hf, htail⟩ := hin
    simp only [shadeAll_cons]
    by_cases hlater : ∃ g ∈ fs, g.x = (x : Int) ∧ g.y = (y : Int)
    · exact ih htail (shadeMem_wf hm hf) (shadeMem_wf hm' hf) hlater
    · obtain ⟨hfx, hfy⟩ : f.x = (x : Int) ∧ f.y = (y : Int) := by
        obtain ⟨g, hg, hxy⟩ := h
        rcases List.mem_cons.mp hg with rfl | hg
        · exact hxy
        · exact absurd ⟨g, hg, hxy⟩ hlater
      have hnone : ∀ g ∈ fs, ¬(g.x = (x : Int) ∧ g.y = (y : Int)) := fun g hg hxy => hlater ⟨g, hg, hxy⟩
      obtain ⟨w, hw⟩ := hconst f
      have hfirst (n : Memory) (hn : n.wf = true) : (shadeMem sh n f).vread x y = w := by
        have hsame := shadeMem_vread_same (sh := sh) hn hf
        rwa [hw n, hfx, hfy] at hsame
      rw [shadeAll_vread_ne hx htail hnone, shadeAll_vread_ne hx htail hnone, hfirst m hm, hfirst m' hm']

/-- Where the pixels' words do not depend on VRAM, shading the list again leaves every word. -/
theorem shadeAll_twice_vread {m : Memory} (hm : m.wf = true) :
    (shadeAll sh (shadeAll sh m fs) fs).vread x y = (shadeAll sh m fs).vread x y := by
  by_cases h : ∃ f ∈ fs, f.x = (x : Int) ∧ f.y = (y : Int)
  · exact shadeAll_vread_of_named hx hin hconst (shadeAll_wf hm hin) hm h
  · exact shadeAll_vread_ne hx hin fun f hf hxy => h ⟨f, hf, hxy⟩

end

/-- A draw that ends idle was accepted and completed. -/
theorem execDraw_idle {i : Instr} {sh : Shader} {fs : List Frag} {s t : State} (h : execDraw i sh fs s = .next t)
    (ht : t.seq = .idle) :
    s.da.set = true ∧ WellFormed i = true ∧ (∀ f ∈ fs, inVram f.x f.y = true)
      ∧ t = { s with mem := shadeAll sh s.mem fs, cl := none, seq := .idle } := by
  obtain ⟨-, ⟨-, rfl⟩ | ⟨-, -, rfl⟩ | hdone | ⟨-, -, pre, g, post, -, -, -, rfl⟩⟩ := execDraw_cases h
  · cases ht
  · cases ht
  · exact hdone
  · cases ht

/-- Settles O32: a word that a pixel names holds the last such pixel's colour after either drawing. -/
theorem opaqueUntexturedDrawIsIdempotent : Obligations.OpaqueUntexturedDrawIsIdempotent := by
  unfold Obligations.OpaqueUntexturedDrawIsIdempotent
  intro i c s t hc hm htex htrans hand _ hexec hidle
  rw [exec_draw s hc] at hexec
  obtain ⟨hset, hw, hin, rfl⟩ := execDraw_idle hexec hidle
  refine ⟨_, (exec_draw _ hc).trans (execDraw_completes rfl hset hw hin), rfl, fun x y hx _ => ?_⟩
  exact shadeAll_twice_vread hx hin
    (fun f => ⟨_, fun m => pixelWord_opaque (sh := shaderOf i s.params c) htex htrans hand m f⟩) hm

/-! ### Words as numbers of base-32 digits (00_scope.md R16) -/

/-- The number of the channels `r`, `g`, `b` and the bits `m` above them, each channel a digit of base 32. -/
def channels (r g b m : Nat) : Nat := r + 32 * (g + 32 * (b + 32 * m))

/-- A word is the number of its channels and its bit 15. -/
theorem toNat_eq_channels (p : Pixel) :
    p.toNat = channels (red p).toNat (green p).toNat (blue p).toNat (maskBit p).toNat := by
  have hm : (maskBit p).toNat = p.toNat / 32768 := by
    rw [maskBit, BitVec.getLsbD, Nat.toNat_testBit]
    omega
  simp only [channels, red, green, blue, BitVec.extractLsb'_toNat, Nat.shiftRight_eq_div_pow, hm]
  omega

/-- The channels and bit 15 of a word given by its number. -/
theorem channels_of_ofNat {r g b m : Nat} (hr : r < 32) (hg : g < 32) (hb : b < 32) :
    (red (BitVec.ofNat 16 (channels r g b m))).toNat = r ∧ (green (BitVec.ofNat 16 (channels r g b m))).toNat = g
      ∧ (blue (BitVec.ofNat 16 (channels r g b m))).toNat = b
      ∧ maskBit (BitVec.ofNat 16 (channels r g b m)) = decide (m % 2 = 1) := by
  simp only [red, green, blue, maskBit, BitVec.extractLsb'_toNat, Nat.shiftRight_eq_div_pow, BitVec.toNat_ofNat,
    BitVec.getLsbD, Nat.testBit_eq_decide_div_mod_eq, channels, decide_eq_decide]
  omega

/-- An operation that works bit by bit works digit by digit. -/
theorem digit_op {op : Nat → Nat → Nat} (hdiv : ∀ x y, op x y / 2 ^ 5 = op (x / 2 ^ 5) (y / 2 ^ 5))
    (hmod : ∀ x y, op x y % 2 ^ 5 = op (x % 2 ^ 5) (y % 2 ^ 5)) {a b : Nat} (x y : Nat) (ha : a < 32) (hb : b < 32) :
    op (a + 32 * x) (b + 32 * y) = op a b + 32 * op x y := by
  have hd := hdiv (a + 32 * x) (b + 32 * y)
  have hm := hmod (a + 32 * x) (b + 32 * y)
  rw [show (a + 32 * x) / 2 ^ 5 = x by omega, show (b + 32 * y) / 2 ^ 5 = y by omega] at hd
  rw [show (a + 32 * x) % 2 ^ 5 = a by omega, show (b + 32 * y) % 2 ^ 5 = b by omega] at hm
  omega

section

variable {r g b r' g' b' : Nat} (m m' : Nat) (hr : r < 32) (hg : g < 32) (hb : b < 32) (hr' : r' < 32) (hg' : g' < 32)
  (hb' : b' < 32)
include hr hg hb hr' hg' hb'

/-- An operation that works bit by bit works channel by channel. -/
theorem channels_op {op : Nat → Nat → Nat} (hdiv : ∀ x y, op x y / 2 ^ 5 = op (x / 2 ^ 5) (y / 2 ^ 5))
    (hmod : ∀ x y, op x y % 2 ^ 5 = op (x % 2 ^ 5) (y % 2 ^ 5)) :
    op (channels r g b m) (channels r' g' b' m') = channels (op r r') (op g g') (op b b') (op m m') := by
  simp only [channels, digit_op hdiv hmod _ _ hr hr', digit_op hdiv hmod _ _ hg hg', digit_op hdiv hmod _ _ hb hb']

theorem channels_and :
    channels r g b m &&& channels r' g' b' m' = channels (r &&& r') (g &&& g') (b &&& b') (m &&& m') :=
  channels_op m m' hr hg hb hr' hg' hb' (fun _ _ => Nat.and_div_two_pow) fun _ _ => Nat.and_mod_two_pow

theorem channels_or :
    channels r g b m ||| channels r' g' b' m' = channels (r ||| r') (g ||| g') (b ||| b') (m ||| m') :=
  channels_op m m' hr hg hb hr' hg' hb' (fun _ _ => Nat.or_div_two_pow) fun _ _ => Nat.or_mod_two_pow

theorem channels_xor :
    channels r g b m ^^^ channels r' g' b' m' = channels (r ^^^ r') (g ^^^ g') (b ^^^ b') (m ^^^ m') :=
  channels_op m m' hr hg hb hr' hg' hb' (fun _ _ => Nat.xor_div_two_pow) fun _ _ => Nat.xor_mod_two_pow

/-- The parity bits of two words: the lowest bits of their exclusive or are those of the channels' sums. A blend leaves
red's out where `e = 0`. -/
theorem channels_xor_and_parity {e : Nat} (k : Nat) (he : e ≤ 1) :
    (channels r g b m ^^^ channels r' g' b' m') &&& channels e 1 1 k
      = channels ((r + r') % 2 * e) ((g + g') % 2) ((b + b') % 2) ((m ^^^ m') &&& k) := by
  have hred : (r ^^^ r') &&& e = (r + r') % 2 * e := by
    interval_cases e
    · rw [Nat.and_zero, Nat.mul_zero]
    · rw [Nat.and_one_is_mod, Nat.xor_mod_two_eq, Nat.mul_one]
  rw [channels_xor m m' hr hg hb hr' hg' hb', channels_and _ _ (Nat.xor_lt_two_pow (n := 5) hr hr')
    (Nat.xor_lt_two_pow (n := 5) hg hg') (Nat.xor_lt_two_pow (n := 5) hb hb') (by omega) (by decide) (by decide), hred,
    Nat.and_one_is_mod, Nat.and_one_is_mod, Nat.xor_mod_two_eq, Nat.xor_mod_two_eq]

end

section

variable {r g b : Nat} (m : Nat) (hr : r < 32) (hg : g < 32) (hb : b < 32)
include hr hg hb

/-- Bit 15 cleared. -/
theorem channels_and_low : channels r g b m &&& 0x7FFF = channels r g b 0 := by
  have h31 (a : Nat) (ha : a < 32) : a &&& 31 = a := by
    rw [Nat.and_two_pow_sub_one_eq_mod a 5, Nat.mod_eq_of_lt ha]
  rw [show 0x7FFF = channels 31 31 31 0 from rfl, channels_and _ _ hr hg hb (by decide) (by decide) (by decide),
    h31 r hr, h31 g hg, h31 b hb, Nat.and_zero]

/-- Bit 15 set. -/
theorem channels_or_high (hm : m ≤ 1) : channels r g b m ||| 0x8000 = channels r g b 1 := by
  have h1 : m ||| 1 = 1 := by interval_cases m <;> rfl
  rw [show 0x8000 = channels 0 0 0 1 from rfl, channels_or _ _ hr hg hb (by decide) (by decide) (by decide), h1]
  simp only [Nat.or_zero]

end

/-! ### Carries between channels

The blends add or subtract whole words and then find what went over from each channel into the next one: a carry of Add,
a borrow that Sub did not need. `s0`, `s1`, `s2` are the channels' sums, below 64. -/

theorem channels_add (r g b m r' g' b' m' : Nat) :
    channels r g b m + channels r' g' b' m' = channels (r + r') (g + g') (b + b') (m + m') := by
  unfold channels
  omega

/-- What went over, after the parity bits were taken off and the other bits masked out. -/
theorem carries_of_sums {s0 s1 s2 p m q : Nat} (k : Nat) (h0 : s0 < 64) (h1 : s1 < 64) (hp : p ≤ s0 % 2) (hq : q ≤ m) :
    (channels s0 s1 s2 m - channels p (s1 % 2) (s2 % 2) q) &&& channels 0 1 1 k
      = channels 0 (s0 / 32) (s1 / 32) ((s2 / 32 + (m - q)) &&& k) := by
  have hdigits : channels s0 s1 s2 m - channels p (s1 % 2) (s2 % 2) q
      = channels ((s0 - p) % 32) (s0 / 32 + (s1 - s1 % 2) % 32) (s1 / 32 + (s2 - s2 % 2) % 32) (s2 / 32 + (m - q)) := by
    unfold channels
    omega
  rw [hdigits, channels_and _ _ (by omega) (by omega) (by omega) (by decide) (by decide) (by decide), Nat.and_zero,
    Nat.and_one_is_mod, Nat.and_one_is_mod, show (s0 / 32 + (s1 - s1 % 2) % 32) % 2 = s0 / 32 by omega,
    show (s1 / 32 + (s2 - s2 % 2) % 32) % 2 = s1 / 32 by omega]

/-- The sums without what went over. -/
theorem sums_sub_carries (s0 s1 s2 : Nat) {m t : Nat} (ht : 32 * t ≤ m) :
    channels s0 s1 s2 m - channels 0 (s0 / 32) (s1 / 32) (s2 / 32 + 32 * t)
      = channels (s0 % 32) (s1 % 32) (s2 % 32) (m - 32 * t) := by
  unfold channels
  omega

/-- What went over, spread over the channel it left. -/
theorem carries_sub_shifted (c0 c1 c2 t : Nat) :
    channels 0 c0 c1 (c2 + 32 * t) - channels 0 c0 c1 (c2 + 32 * t) >>> 5
      = channels (31 * c0) (31 * c1) (31 * c2) (31 * t) := by
  rw [Nat.shiftRight_eq_div_pow]
  unfold channels
  omega

/-- A carry fills its channel. -/
theorem saturated_sum {a b : Nat} (ha : a < 32) (hb : b < 32) :
    (a + b) % 32 ||| 31 * ((a + b) / 32) = min 31 (a + b) := by
  have hfill : ∀ x < 32, x ||| 31 = 31 := by decide
  by_cases h : a + b < 32
  · rw [Nat.div_eq_of_lt h, Nat.or_zero]
    omega
  · rw [show (a + b) / 32 = 1 by omega, Nat.mul_one, hfill _ (by omega)]
    omega

/-- A borrow that was needed clears its channel. -/
theorem saturated_difference {a b : Nat} (ha : a < 32) (hb : b < 32) :
    (b + (32 - a)) % 32 &&& 31 * ((b + (32 - a)) / 32) = b - a := by
  by_cases h : b < a
  · rw [show (b + (32 - a)) / 32 = 0 by omega, Nat.mul_zero, Nat.and_zero]
    omega
  · rw [show (b + (32 - a)) / 32 = 1 by omega, Nat.mul_one, Nat.and_two_pow_sub_one_eq_mod _ 5]
    omega

/-! ### The blends on channels (40_pixel_shader.md R152 to R155) -/

section

variable {r g b r' g' b' m m' : Nat} (hr : r < 32) (hg : g < 32) (hb : b < 32) (hr' : r' < 32) (hg' : g' < 32)
  (hb' : b' < 32)
include hr hg hb hr' hg' hb'

/-- HalfHalf is the mean of each channel (40_pixel_shader.md R152). -/
theorem blendHalf_channels (hm' : m' ≤ 1) :
    blendHalf (channels r g b 1) (channels r' g' b' m')
      = channels ((r + r') / 2) ((g + g') / 2) ((b + b') / 2) 1 := by
  simp only [blendHalf, channels_or_high _ hr' hg' hb' hm', show 0x0421 = channels 1 1 1 0 from rfl,
    channels_xor_and_parity _ _ hr hg hb hr' hg' hb' _ le_rfl, Nat.and_zero, Nat.shiftRight_eq_div_pow]
  unfold channels
  omega

/-- Add is the saturated sum of each channel, with the foreground's bit 15 (40_pixel_shader.md R153). -/
theorem blendAdd_channels (hm : m ≤ 1) :
    blendAdd (channels r g b m) (channels r' g' b' m')
      = channels (min 31 (r + r')) (min 31 (g + g')) (min 31 (b + b')) m := by
  have hpar : (m ^^^ 0) &&& 1 = m := by interval_cases m <;> rfl
  have hcarry : ((b + b') / 32 + (m - m)) &&& 1 = (b + b') / 32 + 32 * 0 := by
    rw [Nat.and_one_is_mod]
    omega
  simp only [blendAdd, channels_and_low _ hr' hg' hb', show 0x8421 = channels 1 1 1 1 from rfl,
    show 0x8420 = channels 0 1 1 1 from rfl, channels_xor_and_parity _ _ hr hg hb hr' hg' hb' _ le_rfl, hpar,
    channels_add, Nat.add_zero, Nat.mul_one]
  rw [carries_of_sums _ (by omega) (by omega) le_rfl le_rfl, hcarry, sums_sub_carries _ _ _ (by omega),
    carries_sub_shifted, channels_or _ _ (by omega) (by omega) (by omega) (by omega) (by omega) (by omega),
    saturated_sum hr hr', saturated_sum hg hg', saturated_sum hb hb', Nat.or_zero, Nat.sub_zero]

/-- Sub is the difference of each channel, cut off at 0 (40_pixel_shader.md R154). -/
theorem blendSub_channels (hm' : m' ≤ 1) :
    blendSub (channels r g b m) (channels r' g' b' m') = channels (r' - r) (g' - g) (b' - b) 1 := by
  have hdiff : channels r' g' b' 1 + 0x108420 - channels r g b 0
      = channels (r' + (32 - r)) (g' + (32 - g)) (b' + (32 - b)) 33 := by
    unfold channels
    omega
  have hborrow : ((b' + (32 - b)) / 32 + (33 - 1)) &&& 33 = (b' + (32 - b)) / 32 + 32 * 1 := by
    have hle : (b' + (32 - b)) / 32 ≤ 1 := by omega
    interval_cases (b' + (32 - b)) / 32 <;> rfl
  simp only [blendSub, channels_or_high _ hr' hg' hb' hm', channels_and_low _ hr hg hb, hdiff]
  rw [show 0x108420 = channels 0 1 1 33 from rfl, channels_xor_and_parity _ _ hr' hg' hb' hr hg hb _ (Nat.zero_le 1),
    show (g' + g) % 2 = (g' + (32 - g)) % 2 by omega, show (b' + b) % 2 = (b' + (32 - b)) % 2 by omega,
    show (1 ^^^ 0) &&& 33 = 1 from rfl,
    Nat.mul_zero, carries_of_sums _ (by omega) (by omega) (Nat.zero_le _) (by decide), hborrow,
    sums_sub_carries _ _ _ (by decide), carries_sub_shifted, channels_and _ _ (by omega) (by omega) (by omega) (by omega) (by omega) (by omega),
    saturated_difference hr hr', saturated_difference hg hg', saturated_difference hb hb',
    show (33 - 32 * 1) &&& 31 * 1 = 1 from rfl]

/-- QuarterAdd is the saturated sum with a quarter of each foreground channel (40_pixel_shader.md R155). -/
theorem blendQuarter_channels :
    blendQuarter (channels r g b m) (channels r' g' b' m')
      = channels (min 31 (r / 4 + r')) (min 31 (g / 4 + g')) (min 31 (b / 4 + b')) 1 := by
  have hshift : channels r g b m >>> 2
      = channels (r / 4 + 8 * (g % 4)) (g / 4 + 8 * (b % 4)) (b / 4 + 8 * (m % 4)) (m / 4) := by
    rw [Nat.shiftRight_eq_div_pow]
    unfold channels
    omega
  have hquarter (a c : Nat) (ha : a < 32) : (a / 4 + 8 * c) &&& 7 = a / 4 := by
    rw [Nat.and_two_pow_sub_one_eq_mod _ 3]
    omega
  rw [blendQuarter, hshift, show 0x1CE7 = channels 7 7 7 0 from rfl,
    channels_and _ _ (by omega) (by omega) (by omega) (by decide) (by decide) (by decide), hquarter r _ hr,
    hquarter g _ hg, hquarter b _ hb, Nat.and_zero, channels_or_high _ (by omega) (by omega) (by omega) (Nat.zero_le 1),
    channels_and_low _ hr' hg' hb',
    blendAdd_channels (by omega) (by omega) (by omega) hr' hg' hb' le_rfl]

end

/-- What a blend makes of a foreground and a background channel (40_pixel_shader.md R158). -/
def blendChannel : BlendMode → Nat → Nat → Nat
  | .halfHalf, f, b => (f + b) / 2
  | .add, f, b => min 31 (f + b)
  | .sub, f, b => b - f
  | .quarterAdd, f, b => min 31 (f / 4 + b)

theorem blendChannel_lt (mode : BlendMode) {f b : Nat} (hf : f < 32) (hb : b < 32) : blendChannel mode f b < 32 := by
  cases mode <;> simp only [blendChannel] <;> omega

/-- A blend works channel by channel, and keeps bit 15 of a foreground that has it set. -/
theorem blend_eq_channels (mode : BlendMode) {fg : Pixel} (bg : Pixel) (h : maskBit fg = true) :
    blend mode fg bg =
      BitVec.ofNat 16 (channels (blendChannel mode (red fg).toNat (red bg).toNat)
        (blendChannel mode (green fg).toNat (green bg).toNat) (blendChannel mode (blue fg).toNat (blue bg).toNat) 1) := by
  have hr := (red fg).isLt
  have hg := (green fg).isLt
  have hb := (blue fg).isLt
  have hr' := (red bg).isLt
  have hg' := (green bg).isLt
  have hb' := (blue bg).isLt
  have hm' := Bool.toNat_le (maskBit bg)
  unfold blend
  rw [toNat_eq_channels fg, toNat_eq_channels bg, h]
  cases mode with
  | halfHalf => exact congrArg _ (blendHalf_channels hr hg hb hr' hg' hb' hm')
  | add => exact congrArg _ (blendAdd_channels hr hg hb hr' hg' hb' le_rfl)
  | sub => exact congrArg _ (blendSub_channels hr hg hb hr' hg' hb' hm')
  | quarterAdd => exact congrArg _ (blendQuarter_channels hr hg hb hr' hg' hb')

/-- Settles O35: every blend is `blendChannel` on each channel, with bit 15 set. -/
theorem blendFollowsThePerChannelLaws : Obligations.BlendFollowsThePerChannelLaws := by
  unfold Obligations.BlendFollowsThePerChannelLaws
  intro fg bg h
  have hlaws (mode : BlendMode) := channels_of_ofNat (m := 1)
    (blendChannel_lt mode (red fg).isLt (red bg).isLt) (blendChannel_lt mode (green fg).isLt (green bg).isLt)
    (blendChannel_lt mode (blue fg).isLt (blue bg).isLt)
  simp only [← blend_eq_channels _ bg h] at hlaws
  have hbit (mode : BlendMode) : maskBit (blend mode fg bg) = true := by
    obtain ⟨-, -, -, h15⟩ := hlaws mode
    exact h15
  refine ⟨hbit, fun ch hch => ?_⟩
  have hchannel (mode : BlendMode) : (ch (blend mode fg bg)).toNat = blendChannel mode (ch fg).toNat (ch bg).toNat := by
    obtain ⟨hred, hgreen, hblue, -⟩ := hlaws mode
    rcases hch with rfl | rfl | rfl
    · exact hred
    · exact hgreen
    · exact hblue
  refine ⟨hchannel .halfHalf, hchannel .add, hchannel .sub, ?_⟩
  rw [hchannel .quarterAdd, blendChannel, Nat.add_comm]

/-- The packed RGB of Add is the saturated sum of each channel, for all words. -/
theorem blend_add_and_low (a b : Pixel) :
    (blend .add a b &&& 0x7FFF).toNat =
      channels (min 31 ((red a).toNat + (red b).toNat)) (min 31 ((green a).toNat + (green b).toNat))
        (min 31 ((blue a).toNat + (blue b).toNat)) 0 := by
  have hm := Bool.toNat_le (maskBit a)
  rw [BitVec.toNat_and, blend, BitVec.toNat_ofNat]
  simp only [toNat_eq_channels a, toNat_eq_channels b]
  rw [blendAdd_channels (red a).isLt (green a).isLt (blue a).isLt (red b).isLt (green b).isLt (blue b).isLt hm,
    Nat.mod_eq_of_lt (by unfold channels; omega)]
  exact channels_and_low _ (by omega) (by omega) (by omega)

/-- Settles O37: the saturated sums do not depend on the order. -/
theorem addBlendIsSymmetric : Obligations.AddBlendIsSymmetric := by
  unfold Obligations.AddBlendIsSymmetric
  intro a b
  apply BitVec.eq_of_toNat_eq
  rw [blend_add_and_low, blend_add_and_low, Nat.add_comm (red a).toNat, Nat.add_comm (green a).toNat,
    Nat.add_comm (blue a).toNat]

/-! ### Packed colours as the rules write them (40_pixel_shader.md R147, R149) -/

/-- The number of a packed word (00_scope.md R16). -/
theorem toNat_pack (r g b : BitVec 5) (m : Bool) :
    (pack r g b m).toNat = r.toNat ||| g.toNat <<< 5 ||| b.toNat <<< 10 ||| m.toNat <<< 15 := by
  simp only [pack, BitVec.toNat_append, BitVec.toNat_ofBool, Nat.shiftLeft_or_distrib, ← Nat.shiftLeft_add]
  ac_rfl

/-- The channels of a word, each by a shift and a mask of its number. -/
theorem toNat_red (p : Pixel) : (red p).toNat = p.toNat &&& 31 :=
  (BitVec.extractLsb'_toNat ..).trans (Nat.and_two_pow_sub_one_eq_mod _ 5).symm

theorem toNat_green (p : Pixel) : (green p).toNat = p.toNat >>> 5 &&& 31 :=
  (BitVec.extractLsb'_toNat ..).trans (Nat.and_two_pow_sub_one_eq_mod _ 5).symm

theorem toNat_blue (p : Pixel) : (blue p).toNat = p.toNat >>> 10 &&& 31 :=
  (BitVec.extractLsb'_toNat ..).trans (Nat.and_two_pow_sub_one_eq_mod _ 5).symm

theorem toNat_maskBit_shiftLeft (p : Pixel) : (maskBit p).toNat <<< 15 = p.toNat &&& 0x8000 := by
  rw [Nat.shiftLeft_eq]
  exact (Nat.and_two_pow p.toNat 15).symm

/-- Settles O36. -/
theorem coloursArePackedAsWritten : Obligations.ColoursArePackedAsWritten := by
  unfold Obligations.ColoursArePackedAsWritten
  intro lut texel r g b trans
  constructor
  · rw [modulate, toNat_pack, toNat_red, toNat_green, toNat_blue, toNat_maskBit_shiftLeft]
  · rw [flatColor, toNat_pack]
    cases trans <;> rfl

end Sys2Proof.Machine

/-!
SUPPORT. The proofs of the family "rectangle" (41_rectangle.md) and of what it shares with the other draws: writes stay
in the area and off the masked rows, no pixel is shaded twice, and the exact pixels of RECT.
-/

namespace Sys2Proof.Machine

open Sys2Proof.Config

/-! ### VRAM after a command, by its pixels -/

/-- VRAM after a draw is VRAM after some of its own pixels, all inside VRAM: none for a refusal, those before the fault
for a faulting draw, all of them for one that completes. -/
theorem exec_draw_mem_of_fragsOf {i : Instr} {c : DrawCfg} {s t : State} (hc : configOf i = some c)
    (h : exec i s = .next t) :
    ∃ fs : List Frag, (∀ f ∈ fs, f ∈ fragsOf s.params s.da i) ∧ (∀ f ∈ fs, inVram f.x f.y = true)
      ∧ t.mem = shadeAll (shaderOf i s.params c) s.mem fs := by
  rw [exec_draw s hc] at h
  obtain ⟨-, ⟨-, rfl⟩ | ⟨-, -, rfl⟩ | ⟨-, -, hin, rfl⟩ | ⟨-, -, pre, g, post, hfs, hin, -, rfl⟩⟩ := execDraw_cases h
  · exact ⟨[], by simp, by simp, rfl⟩
  · exact ⟨[], by simp, by simp, rfl⟩
  · exact ⟨_, fun _ hf => hf, hin, rfl⟩
  · exact ⟨pre, fun f hf => by simp [hfs, hf], hin, rfl⟩

/-- A byte of no word that a pixel names is as it was. -/
theorem shadeAll_read_of_not_named {sh : Shader} {m : Memory} {fs : List Frag} {a : Nat}
    (hin : ∀ f ∈ fs, inVram f.x f.y = true)
    (h : ∀ x y : Nat, x < 1024 → y < 512 → wordHolds x y a → ∀ f ∈ fs, ¬(f.x = (x : Int) ∧ f.y = (y : Int))) :
    (shadeAll sh m fs).read a = m.read a := by
  refine shadeAll_read_ne fun f hf => not_or.mp fun hword => ?_
  obtain ⟨hx, hy⟩ := toNat_lt_of_inVram (hin f hf)
  have hpos := inVram_iff.mp (hin f hf)
  exact h _ _ hx hy hword f hf (by omega)

/-- Settles O24: the pixels a command writes are its own, and they lie in the area. -/
theorem writesStayInsideTheArea : Obligations.WritesStayInsideTheArea := by
  unfold Obligations.WritesStayInsideTheArea
  intro i s t a h hout
  rcases draw_or_setarea i with ⟨c, hc⟩ | ⟨l, u, r, b, rfl⟩
  · obtain ⟨fs, hfs, hin, hmem⟩ := exec_draw_mem_of_fragsOf hc h
    rw [State.hostByte_eq, State.hostByte_eq, hmem]
    refine shadeAll_read_of_not_named hin fun x y hx hy hword f hf ⟨hfx, hfy⟩ => ?_
    obtain ⟨hcol, hrow⟩ := has_of_mem_fragsOf (hfs f hf)
    have houtside := hout x y hx hy hword
    rw [← hfx, ← hfy, hcol, hrow] at houtside
    cases houtside
  · rw [exec_setarea_next h]
    rfl

/-- Settles O27: a pixel of the command would lie in the area. -/
theorem emptyAreaDrawsNothing : Obligations.EmptyAreaDrawsNothing := by
  unfold Obligations.EmptyAreaDrawsNothing
  intro i s hkind hready hw hempty
  obtain ⟨c, hc⟩ := kind_ne_setarea_iff.mp hkind
  obtain ⟨hseq, hset⟩ : s.seq = .idle ∧ s.da.set = true := by simpa [State.ready] using hready
  have hnone : fragsOf s.params s.da i = [] := List.eq_nil_iff_forall_not_mem.mpr fun g hg => by
    obtain ⟨hcol, hrow⟩ := has_of_mem_fragsOf hg
    rw [DrawArea.hasCol_iff] at hcol
    rw [DrawArea.hasRow_iff] at hrow
    omega
  rw [exec_draw s hc, hnone, execDraw_completes hseq hset hw (by simp), shadeAll_nil]

/-! ### The rows of the pixels (41_rectangle.md R181, 42_line.md R208, R209, 43_triangle.md R247 to R252) -/

/-- A line's registers `k` steps later (42_line.md R208). -/
def LineRegs.after (r : LineRegs) (k : Nat) : LineRegs :=
  { r with
    curx := r.curx + (k : Int) * r.dxdk
    cury := r.cury + (k : Int) * r.dydk
    curr := r.curr + (k : Int) * r.drdk
    curg := r.curg + (k : Int) * r.dgdk
    curb := r.curb + (k : Int) * r.dbdk
    i := r.i + k }

@[simp] theorem LineRegs.after_zero (r : LineRegs) : r.after 0 = r := by simp [LineRegs.after]

theorem LineRegs.advance_after (r : LineRegs) (k : Nat) : r.advance.after k = r.after (k + 1) := by
  simp only [LineRegs.after, LineRegs.advance, Nat.cast_add, Nat.cast_one, add_mul, one_mul]
  congr 1 <;> ring

/-- The pixels of `n` steps: of each step whose pixel passes the tests, its call (42_line.md R208, R209). -/
theorem mem_lineWalk_iff {da : DrawArea} {c : DrawCfg} {shade : Bool} {n : Nat} {r : LineRegs} {g : Frag} :
    g ∈ lineWalk da c shade n r ↔
      ∃ k < n, g = (r.after k).frag shade ∧ linePixelDrawn da c g.x g.y = true := by
  induction n generalizing r with
  | zero => simp [lineWalk]
  | succ n ih =>
    have hfirst : g ∈ lineWalk da c shade (n + 1) r ↔
        (g = r.frag shade ∧ linePixelDrawn da c g.x g.y = true) ∨ g ∈ lineWalk da c shade n r.advance := by
      rw [lineWalk]
      split
      · rename_i hdrawn
        rw [List.mem_cons, and_iff_left_of_imp fun h : g = r.frag shade => by rwa [h]]
      · rename_i hdrawn
        exact ⟨.inr, fun h => h.resolve_left fun ⟨hg, hd⟩ => hdrawn (hg ▸ hd)⟩
    rw [hfirst, ih]
    simp only [Nat.exists_lt_succ_left, LineRegs.after_zero, LineRegs.advance_after]

/-- The pixel is on one of the rows from `lo` up to but not `hi`, and the interlace does not mask its row. -/
def Frag.OnRows (c : DrawCfg) (lo hi : Int) (g : Frag) : Prop :=
  lo ≤ g.y ∧ g.y < hi ∧ interlaced c g.y = false

theorem Frag.OnRows.widen {c : DrawCfg} {lo lo' hi hi' : Int} {g : Frag} (h : g.OnRows c lo hi) (hlo : lo' ≤ lo)
    (hhi : hi ≤ hi') : g.OnRows c lo' hi' :=
  ⟨hlo.trans h.1, h.2.1.trans_le hhi, h.2.2⟩

section
variable {da : DrawArea} {c : DrawCfg} {p : Planes} {row : RowPos} {ls rs y lc rc : Int} {g : Frag}

theorem onRows_of_mem_span (h : g ∈ span da c p row y lc rc) : g.OnRows c y (y + 1) := by
  unfold span at h
  split at h
  · cases h
  · rename_i hrow
    obtain ⟨k, -, rfl⟩ := (mem_spanPixels_iff ..).mp h
    exact ⟨le_rfl, Int.lt_succ y, eq_false_of_ne_true hrow⟩

theorem onRows_of_mem_walkIncrement {n : Nat} (h : g ∈ walkIncrement da c p row ls rs n y lc rc) :
    g.OnRows c y (y + n) := by
  induction n generalizing y lc rc with
  | zero => cases h
  | succ n ih =>
    unfold walkIncrement at h
    split at h
    · cases h
    · rcases List.mem_append.mp h with h | h
      · split at h
        · exact (onRows_of_mem_span h).widen le_rfl (by omega)
        · cases h
      · exact (ih h).widen (by omega) (by omega)

theorem onRows_of_mem_walkDecrement {n : Nat} (h : g ∈ walkDecrement da c p row ls rs n y lc rc) :
    g.OnRows c (y - n) y := by
  induction n generalizing y lc rc with
  | zero => cases h
  | succ n ih =>
    unfold walkDecrement at h
    split at h
    · cases h
    · rcases List.mem_append.mp h with h | h
      · split at h
        · cases h
        · exact (onRows_of_mem_span h).widen (by omega) (by omega)
      · exact (ih h).widen (by omega) (by omega)

theorem onRows_of_mem_halfFrags {hf : Half} (h : g ∈ Half.frags da c p row hf) :
    g.OnRows c (min hf.yc hf.yb) (max hf.yc hf.yb) := by
  unfold Half.frags at h
  split at h
  · exact (onRows_of_mem_walkDecrement h).widen (by omega) (by omega)
  · exact (onRows_of_mem_walkIncrement h).widen (by omega) (by omega)

/-- The upper half is above the middle vertex (43_triangle.md R247). -/
theorem onRows_of_mem_upper {s : Sorted} (hrows : s.v0.y ≤ s.v1.y) (h : g ∈ Half.frags da c p row s.upper) :
    g.OnRows c s.v0.y s.v1.y := by
  have hon := onRows_of_mem_halfFrags h
  unfold Sorted.upper mkHalf at hon
  cases hvo : s.vo <;> simp only [hvo, Bool.false_eq_true, if_false, if_true] at hon
  · exact hon.widen (by omega) (by omega)
  · exact hon.widen (by omega) (by omega)

/-- The lower half starts at the middle vertex (43_triangle.md R248). -/
theorem onRows_of_mem_lower {s : Sorted} (hrows : s.v1.y ≤ s.v2.y) (h : g ∈ Half.frags da c p row s.lower) :
    g.OnRows c s.v1.y s.v2.y := by
  have hon := onRows_of_mem_halfFrags h
  unfold Sorted.lower mkHalf at hon
  cases hvp : s.vp <;> simp only [hvp, Bool.false_eq_true, if_false, if_true] at hon
  · exact hon.widen (by omega) (by omega)
  · exact hon.widen (by omega) (by omega)

end

theorem not_interlaced_of_mem_triangleFrags {da : DrawArea} {cfg : DrawCfg} {f : PolyFlags} {second : Bool}
    {a b c : Vertex} {g : Frag} (h : g ∈ triangleFrags da cfg f second a b c) : interlaced cfg g.y = false := by
  unfold triangleFrags at h
  dsimp only at h
  split at h
  · cases h
  · exact (List.mem_append.mp h).elim (fun h => (onRows_of_mem_halfFrags h).2.2)
      fun h => (onRows_of_mem_halfFrags h).2.2

/-- No pixel a command shades is on a row that the interlace masks. -/
theorem not_interlaced_of_mem_fragsOf {p : Params} {da : DrawArea} {i : Instr} {c : DrawCfg} {g : Frag}
    (hc : configOf i = some c) (h : g ∈ fragsOf p da i) : interlaced c g.y = false := by
  cases i with
  | rect f c o sz col uv =>
    cases hc
    obtain ⟨oy, ox, -, -, -, hrow, -, rfl⟩ := mem_rectFrags_iff.mp h
    exact hrow
  | line f c p0 p1 =>
    cases hc
    change g ∈ lineFrags da f.shade c p0 p1 at h
    unfold lineFrags at h
    split at h
    · cases h
    · obtain ⟨k, -, -, hdrawn⟩ := mem_lineWalk_iff.mp h
      simp only [linePixelDrawn, Bool.and_eq_true, Bool.not_eq_true'] at hdrawn
      exact hdrawn.1.1
  | tri f c v0 v1 v2 =>
    cases hc
    exact not_interlaced_of_mem_triangleFrags h
  | quad f c v0 v1 v2 v3 =>
    cases hc
    exact (List.mem_append.mp h).elim not_interlaced_of_mem_triangleFrags not_interlaced_of_mem_triangleFrags
  | setarea => cases hc

theorem interlaced_natCast {c : DrawCfg} {y : Nat} (hi : c.ilace = true) (hy : y % 2 = c.alsb.toNat) :
    interlaced c (y : Int) = true := by
  have hlow : lowBits (y : Int) 1 = c.alsb.toNat := by unfold lowBits; omega
  rw [interlaced, hi, hlow]
  cases c.alsb <;> rfl

/-- Settles O26: the pixels a command writes are its own, and none is on a masked row. -/
theorem interlacedRowsAreUnchanged : Obligations.InterlacedRowsAreUnchanged := by
  unfold Obligations.InterlacedRowsAreUnchanged
  intro i c s t x y hc h hx _ hilace hy
  obtain ⟨fs, hfs, hin, hmem⟩ := exec_draw_mem_of_fragsOf hc h
  rw [State.vram_eq, State.vram_eq, hmem]
  refine shadeAll_vread_ne hx hin fun f hf ⟨_, hfy⟩ => ?_
  have hrow := not_interlaced_of_mem_fragsOf hc (hfs f hf)
  rw [hfy, interlaced_natCast hilace hy] at hrow
  cases hrow

/-! ### No pixel twice (41_rectangle.md R185, 42_line.md R212, 43_triangle.md R249) -/

/-- Two calls of the shader are for different pixels. -/
def Frag.Apart (f g : Frag) : Prop := ¬(f.x = g.x ∧ f.y = g.y)

/-- Pixels of different rows are apart, so two lists on rows that do not meet make one. -/
theorem pairwise_apart_append {c : DrawCfg} {lo hi lo' hi' : Int} {fs gs : List Frag} (hf : fs.Pairwise Frag.Apart)
    (hg : gs.Pairwise Frag.Apart) (hfr : ∀ f ∈ fs, f.OnRows c lo hi) (hgr : ∀ g ∈ gs, g.OnRows c lo' hi')
    (h : hi ≤ lo' ∨ hi' ≤ lo) : (fs ++ gs).Pairwise Frag.Apart := by
  refine List.pairwise_append.mpr ⟨hf, hg, fun f hfm g hgm ⟨_, hy⟩ => ?_⟩
  obtain ⟨hflo, hfhi, -⟩ := hfr f hfm
  obtain ⟨hglo, hghi, -⟩ := hgr g hgm
  omega

theorem y_of_mem_rectRow {da : DrawArea} {c : DrawCfg} {o : XY} {sz : Size} {col : Color} {uv : UV} {oy : Nat}
    {g : Frag} (h : g ∈ rectRow da c o sz col uv oy) : g.y = o.yInt + (oy : Int) := by
  unfold rectRow at h
  dsimp only at h
  split at h
  · cases h
  · obtain ⟨ox, -, h⟩ := List.mem_flatMap.mp h
    split at h
    · rw [List.mem_singleton.mp h]
    · cases h

theorem rectRow_apart (da : DrawArea) (c : DrawCfg) (o : XY) (sz : Size) (col : Color) (uv : UV) (oy : Nat) :
    (rectRow da c o sz col uv oy).Pairwise Frag.Apart := by
  unfold rectRow
  dsimp only
  split
  · exact .nil
  · refine List.pairwise_flatMap.mpr ⟨fun ox _ => ?_,
      List.pairwise_lt_range.imp fun {ox ox'} hlt f hf g hg ⟨hx, _⟩ => ?_⟩
    · split
      · exact List.pairwise_singleton ..
      · exact .nil
    · split at hf <;> split at hg <;> simp only [List.mem_singleton, List.not_mem_nil] at hf hg
      subst hf hg
      dsimp only at hx
      omega

/-- A rectangle's rows are apart, and so are a row's columns. -/
theorem rectFrags_apart (da : DrawArea) (c : DrawCfg) (o : XY) (sz : Size) (col : Color) (uv : UV) :
    (rectFrags da c o sz col uv).Pairwise Frag.Apart := by
  refine List.pairwise_flatMap.mpr ⟨fun oy _ => rectRow_apart da c o sz col uv oy,
    List.pairwise_lt_range.imp fun {oy oy'} hlt f hf g hg ⟨_, hy⟩ => ?_⟩
  rw [y_of_mem_rectRow hf, y_of_mem_rectRow hg] at hy
  omega

/-- A whole number of pixels away, fewer than the 2048 that a coordinate holds, the coordinate differs
(42_line.md R211). -/
theorem lineCoord_ne_of_unit_steps {cur step : Int} {k : Nat} (hstep : |step| = 2 ^ 32) (h0 : 0 < k) (hk : k < 2048) :
    lineCoord cur ≠ lineCoord (cur + (k : Int) * step) := by
  unfold lineCoord lowBits asr xyFrac
  rcases eq_or_eq_neg_of_abs_eq hstep with rfl | rfl <;> omega

theorem lineWalk_apart {da : DrawArea} {c : DrawCfg} {shade : Bool} {n : Nat} {r : LineRegs} (hn : n ≤ 2048)
    (hstep : 1 < n → |r.dxdk| = 2 ^ 32 ∨ |r.dydk| = 2 ^ 32) : (lineWalk da c shade n r).Pairwise Frag.Apart := by
  induction n generalizing r with
  | zero => exact .nil
  | succ n ih =>
    have htail := ih (r := r.advance) (by omega) fun h => hstep (by omega)
    unfold lineWalk
    dsimp only
    split
    · refine .cons (fun g hg ⟨hx, hy⟩ => ?_) htail
      obtain ⟨k, hk, rfl, -⟩ := mem_lineWalk_iff.mp hg
      rw [LineRegs.advance_after] at hx hy
      rcases hstep (by omega) with h | h
      · exact lineCoord_ne_of_unit_steps h (Nat.succ_pos k) (by omega) hx
      · exact lineCoord_ne_of_unit_steps h (Nat.succ_pos k) (by omega) hy
    · exact htail

/-- Along the longer direction a line steps a whole pixel (42_line.md R201, R203). -/
theorem abs_stepXY_of_abs_eq {d k : Int} (hk : 0 < k) (hd : |d| = k) : |stepXY d k| = 2 ^ 32 := by
  have hunit : divAway (k * 2 ^ xyFrac) k = 2 ^ 32 := by
    have hpos : 0 < k * 2 ^ xyFrac := by positivity
    rw [divAway, if_neg hpos.not_gt, if_pos hpos, tdiv, Int.tdiv_eq_ediv_of_nonneg (by omega), Int.add_comm,
      Int.add_mul_ediv_left _ _ hk.ne', Int.ediv_eq_zero_of_lt (by omega) (by omega), Int.zero_add]
  rw [stepXY, if_pos hk]
  rcases eq_or_eq_neg_of_abs_eq hd with rfl | rfl
  · rw [hunit]; rfl
  · rw [Int.neg_mul, divAway_neg, hunit]; rfl

/-- A line's pixels are apart: the longer direction's coordinate differs at every two steps. -/
theorem lineFrags_apart (da : DrawArea) (shade : Bool) (c : DrawCfg) (p0 p1 : LineVertex) :
    (lineFrags da shade c p0 p1).Pairwise Frag.Apart := by
  unfold lineFrags
  split
  · exact .nil
  · rename_i hlong
    have hk := lineK_lt_of_not_tooLong (eq_false_of_ne_true hlong)
    refine lineWalk_apart (by omega) fun h => ?_
    obtain ⟨hdx, hdy⟩ := abs_canonical_sub p0 p1
    rcases max_choice (lineDx p0 p1) (lineDy p0 p1) with hmax | hmax
    · exact .inl (abs_stepXY_of_abs_eq (by omega) (hdx.trans hmax.symm))
    · exact .inr (abs_stepXY_of_abs_eq (by omega) (hdy.trans hmax.symm))

section
variable (da : DrawArea) (c : DrawCfg) (p : Planes) (row : RowPos)

theorem spanPixels_apart (y : Int) (n : Nat) (x : Int) (a : Acc) :
    (spanPixels p row y n x a).Pairwise Frag.Apart := by
  induction n generalizing x a with
  | zero => exact .nil
  | succ n ih =>
    refine .cons (fun g hg ⟨hx, _⟩ => ?_) (ih ..)
    obtain ⟨k, -, rfl⟩ := (mem_spanPixels_iff ..).mp hg
    dsimp only at hx
    omega

theorem span_apart (y lc rc : Int) : (span da c p row y lc rc).Pairwise Frag.Apart := by
  unfold span
  split
  · exact .nil
  · exact spanPixels_apart ..

theorem walkIncrement_apart (ls rs : Int) (n : Nat) (y lc rc : Int) :
    (walkIncrement da c p row ls rs n y lc rc).Pairwise Frag.Apart := by
  induction n generalizing y lc rc with
  | zero => exact .nil
  | succ n ih =>
    unfold walkIncrement
    split
    · exact .nil
    · split
      · exact pairwise_apart_append (span_apart ..) (ih ..) (fun _ => onRows_of_mem_span)
          (fun _ => onRows_of_mem_walkIncrement) (.inl le_rfl)
      · exact ih ..

theorem walkDecrement_apart (ls rs : Int) (n : Nat) (y lc rc : Int) :
    (walkDecrement da c p row ls rs n y lc rc).Pairwise Frag.Apart := by
  induction n generalizing y lc rc with
  | zero => exact .nil
  | succ n ih =>
    unfold walkDecrement
    split
    · exact .nil
    · split
      · exact ih ..
      · exact pairwise_apart_append (span_apart ..) (ih ..) (fun _ => onRows_of_mem_span)
          (fun _ => onRows_of_mem_walkDecrement) (.inr le_rfl)

theorem halfFrags_apart (h : Half) : (Half.frags da c p row h).Pairwise Frag.Apart := by
  unfold Half.frags
  split
  · exact walkDecrement_apart ..
  · exact walkIncrement_apart ..

end

/-- A triangle's two halves share no row, whichever is walked first (43_triangle.md R247 to R249). -/
theorem triangleFrags_apart (da : DrawArea) (cfg : DrawCfg) (f : PolyFlags) (second : Bool) (a b c : Vertex) :
    (triangleFrags da cfg f second a b c).Pairwise Frag.Apart := by
  unfold triangleFrags
  obtain ⟨hupper, hlower⟩ := sortY_rows (triVertex a) (triVertex b) (triVertex c)
  generalize sortY (triVertex a) (triVertex b) (triVertex c) = s at hupper hlower
  dsimp only
  split
  · exact .nil
  · unfold Sorted.half0 Sorted.half1
    cases s.vo
    · exact pairwise_apart_append (halfFrags_apart ..) (halfFrags_apart ..) (fun _ => onRows_of_mem_upper hupper)
        (fun _ => onRows_of_mem_lower hlower) (.inl le_rfl)
    · exact pairwise_apart_append (halfFrags_apart ..) (halfFrags_apart ..) (fun _ => onRows_of_mem_lower hlower)
        (fun _ => onRows_of_mem_upper hupper) (.inr le_rfl)

/-- Settles O33: the pixels of each kind are pairwise apart. -/
theorem noPixelIsShadedTwice : Obligations.NoPixelIsShadedTwice := by
  unfold Obligations.NoPixelIsShadedTwice
  intro p da i hkind
  have hapart : (fragsOf p da i).Pairwise Frag.Apart := by
    cases i with
    | rect f c o sz col uv => exact rectFrags_apart da c o sz col uv
    | line f c p0 p1 => exact lineFrags_apart da f.shade c p0 p1
    | tri f c v0 v1 v2 => exact triangleFrags_apart da c f false v0 v1 v2
    | quad => exact absurd rfl hkind
    | setarea => exact .nil
  exact List.pairwise_map.mpr (hapart.imp fun h heq => h (Prod.ext_iff.mp heq))

/-! ### The pixels of a draw that does not texture from what it draws -/

/-- A texel fetch depends on VRAM through the words it reads alone. -/
theorem fetchTexel_congr {c : DrawCfg} {m m' : Memory} {u v : Byte}
    (h : ∀ p ∈ texelReads c m u v, m'.vread p.1 p.2 = m.vread p.1 p.2) : fetchTexel c m' u v = fetchTexel c m u v := by
  unfold texelReads at h
  unfold fetchTexel
  cases hmode : c.tmode <;> simp only [hmode, List.forall_mem_cons] at h
  · obtain ⟨hpage, hentry, -⟩ := h
    simp only [hpage, hentry]
  · obtain ⟨hpage, hentry, -⟩ := h
    simp only [hpage, hentry]
  · exact h.1
  · rfl

/-- The word a pixel is given depends on VRAM through its own word and the words its texel fetch reads alone. -/
theorem pixelWord_congr {sh : Shader} {m m' : Memory} {f : Frag}
    (hown : m'.vread f.x.toNat f.y.toNat = m.vread f.x.toNat f.y.toNat)
    (htex : sh.eff.tex = true → ∀ p ∈ texelReads sh.cfg m (windowU sh.cfg f.u) (windowV sh.cfg f.v),
      m'.vread p.1 p.2 = m.vread p.1 p.2) : pixelWord sh m' f = pixelWord sh m f := by
  have hfg : foreground sh m' f = foreground sh m f := by
    unfold foreground
    cases ht : sh.eff.tex with
    | true => rw [fetchTexel_congr (htex ht)]
    | false => rfl
  unfold pixelWord
  rw [hfg, hown]

/-- A pixel that no other call of the list names, in a list that does not read what it writes, ends as the shader makes
it from the VRAM before. -/
theorem shadeAll_vread_of_mem {sh : Shader} {m : Memory} {fs : List Frag} {f : Frag} (hm : m.wf = true)
    (hin : ∀ g ∈ fs, inVram g.x g.y = true) (hapart : fs.Pairwise Frag.Apart) (hno : NoSelfTexture sh m fs)
    (hf : f ∈ fs) : (shadeAll sh m fs).vread f.x.toNat f.y.toNat = wordAfter sh m f := by
  have hfin := hin f hf
  have hbound := toNat_lt_of_inVram hfin
  have hpos := inVram_iff.mp hfin
  have htexels (ht : sh.eff.tex = true) := hno ht f hf
  obtain ⟨pre, post, rfl⟩ := List.append_of_mem hf
  obtain ⟨-, hpost, hpre⟩ := List.pairwise_append.mp hapart
  obtain ⟨hpreIn, -, hpostIn⟩ : (∀ g ∈ pre, inVram g.x g.y = true) ∧ inVram f.x f.y = true ∧
      ∀ g ∈ post, inVram g.x g.y = true := by simpa [or_imp, forall_and] using hin
  have hown : (shadeAll sh m pre).vread f.x.toNat f.y.toNat = m.vread f.x.toNat f.y.toNat :=
    shadeAll_vread_ne hbound.1 hpreIn fun g hg hxy => hpre g hg f (List.mem_cons_self ..) (by omega)
  have hword : pixelWord sh (shadeAll sh m pre) f = pixelWord sh m f :=
    pixelWord_congr hown fun ht q hq => shadeAll_vread_ne (texelReads_lt _ _ _ _ q hq).1 hpreIn fun g hg =>
      htexels ht q hq g (List.mem_append_left _ hg)
  rw [shadeAll_append, shadeAll_cons, shadeAll_vread_ne hbound.1 hpostIn fun g hg hxy => ?_,
    shadeMem_vread_same (shadeAll_wf hm hpreIn) hfin, hword, hown, wordAfter]
  exact (List.pairwise_cons.mp hpost).1 g hg (by omega)

/-- The shader's word does not depend on the position of the iteration. -/
theorem wordAfter_unplaced (sh : Shader) (m : Memory) (f : Frag) : wordAfter sh m f.unplaced = wordAfter sh m f := rfl

/-! ### RECT -/

/-- The pixels of a rectangle are where it covers. -/
theorem rectCovers_iff_mem_rectFrags {da : DrawArea} {c : DrawCfg} {o : XY} {sz : Size} {x y : Int} (col : Color)
    (uv : UV) : rectCovers da c o sz x y = true ↔ ∃ g ∈ rectFrags da c o sz col uv, g.x = x ∧ g.y = y := by
  constructor
  · intro h
    simp only [rectCovers, Bool.and_eq_true, decide_eq_true_eq, Bool.not_eq_true'] at h
    obtain ⟨⟨⟨⟨⟨⟨hx, hx'⟩, hy⟩, hy'⟩, hcol⟩, hrow⟩, hilace⟩ := h
    have hox : o.xInt + ((x - o.xInt).toNat : Int) = x := by omega
    have hoy : o.yInt + ((y - o.yInt).toNat : Int) = y := by omega
    exact ⟨_, mem_rectFrags_iff.mpr ⟨(y - o.yInt).toNat, (x - o.xInt).toNat, by omega, by omega, by rwa [hoy],
      by rwa [hoy], by rwa [hox], rfl⟩, hox, hoy⟩
  · rintro ⟨g, hg, rfl, rfl⟩
    exact rectCovers_of_mem_rectFrags hg

/-- A rectangle's call at a pixel is its closed form (41_rectangle.md R183, R184). -/
theorem unplaced_of_mem_rectFrags {da : DrawArea} {c : DrawCfg} {o : XY} {sz : Size} {col : Color} {uv : UV} {g : Frag}
    (h : g ∈ rectFrags da c o sz col uv) : g.unplaced = rectCall o col uv g.x g.y := by
  obtain ⟨oy, ox, -, -, -, -, -, rfl⟩ := mem_rectFrags_iff.mp h
  simp [rectCall, Frag.unplaced]

/-- Settles O42: the rectangle's pixels are where it covers, so all of them lie in VRAM. -/
theorem rectCompletesInsideItsFootprint : Obligations.RectCompletesInsideItsFootprint := by
  unfold Obligations.RectCompletesInsideItsFootprint
  intro f c o sz col uv s hready hw hcov
  have hin : ∀ g ∈ rectFrags s.da c o sz col uv, inVram g.x g.y = true :=
    fun g hg => hcov _ _ (rectCovers_of_mem_rectFrags hg)
  refine ⟨_, exec_rect_completes hready hw hin, rfl, fun a hout => ?_⟩
  refine shadeAll_read_of_not_named hin fun x y hx hy hword g hg hxy => ?_
  have hcovered := (rectCovers_iff_mem_rectFrags col uv).mpr ⟨g, hg, hxy⟩
  rw [hout x y hx hy hword] at hcovered
  cases hcovered

/-- Settles O43: a covered word is named by one pixel, which reads nothing the others write. -/
theorem rectDrawsExactlyItsPixels : Obligations.RectDrawsExactlyItsPixels := by
  unfold Obligations.RectDrawsExactlyItsPixels
  intro f c o sz col uv s hready hw hcov hm hno
  have hin : ∀ g ∈ rectFrags s.da c o sz col uv, inVram g.x g.y = true :=
    fun g hg => hcov _ _ (rectCovers_of_mem_rectFrags hg)
  refine ⟨_, exec_rect_completes hready hw hin, rfl, fun x y hx _ => ?_⟩
  rw [State.vram_eq, State.vram_eq]
  split
  · rename_i hcovered
    obtain ⟨g, hg, hgx, hgy⟩ := (rectCovers_iff_mem_rectFrags col uv).mp hcovered
    have hsame := shadeAll_vread_of_mem hm hin (rectFrags_apart ..) hno hg
    rw [← wordAfter_unplaced, unplaced_of_mem_rectFrags hg] at hsame
    simpa only [hgx, hgy, Int.toNat_natCast] using hsame
  · rename_i hcovered
    exact shadeAll_vread_ne hx hin fun g hg hxy =>
      hcovered ((rectCovers_iff_mem_rectFrags col uv).mpr ⟨g, hg, hxy⟩)

end Sys2Proof.Machine

/-!
SUPPORT. The proofs of the family "line" (42_line.md): which lines are dropped, the exact pixels of LINE, both endpoints,
and the range of a shaded line's channels.
-/

namespace Sys2Proof.Machine

open Sys2Proof.Config

/-! ### Which lines are dropped (42_line.md R201) -/

theorem lineDx_eq_abs (p0 p1 : LineVertex) : lineDx p0 p1 = |p1.pos.xInt - p0.pos.xInt| :=
  (Int.abs_eq_natAbs _).symm

theorem lineDy_eq_abs (p0 p1 : LineVertex) : lineDy p0 p1 = |p1.pos.yInt - p0.pos.yInt| :=
  (Int.abs_eq_natAbs _).symm

theorem lineTooLong_iff {p0 p1 : LineVertex} :
    lineTooLong p0 p1 = true ↔ 1024 ≤ |p1.pos.xInt - p0.pos.xInt| ∨ 512 ≤ |p1.pos.yInt - p0.pos.yInt| := by
  simp [lineTooLong, lineDx_eq_abs, lineDy_eq_abs]

/-- A line whose pixels all lie in VRAM completes, a dropped one among them. -/
theorem exec_line_completes {f : LineFlags} {c : DrawCfg} {p0 p1 : LineVertex} {s : State} (hr : s.ready = true)
    (hin : ∀ g ∈ lineFrags s.da f.shade c p0 p1, inVram g.x g.y = true) :
    exec (.line f c p0 p1) s =
      .next { s with mem := shadeAll (lineShader f c s) s.mem (lineFrags s.da f.shade c p0 p1), cl := none,
                     seq := .idle } := by
  obtain ⟨hseq, hset⟩ : s.seq = .idle ∧ s.da.set = true := by simpa [State.ready] using hr
  exact execDraw_completes hseq hset rfl hin

/-- Settles O45: a dropped line has no pixels. -/
theorem oversizedLineIsDropped : Obligations.OversizedLineIsDropped := by
  unfold Obligations.OversizedLineIsDropped
  intro f c p0 p1 s hready
  refine ⟨fun hover => ?_, fun hdx hdy => ?_⟩
  · have hnone : lineFrags s.da f.shade c p0 p1 = [] := if_pos (lineTooLong_iff.mpr hover)
    rw [exec_line_completes hready (by simp [hnone]), hnone, shadeAll_nil]
  · have hkept : lineTooLong p0 p1 = false := Bool.eq_false_iff.mpr (lineTooLong_iff.not.mpr (by omega))
    refine ⟨hkept, by rw [lineK, lineDx_eq_abs, lineDy_eq_abs], ?_⟩
    have hk := lineK_lt_of_not_tooLong hkept
    omega

/-! ### The pixels of LINE (42_line.md R206 to R211) -/

theorem lineSetup_after (shade : Bool) (p0 p1 : LineVertex) (i : Nat) :
    (lineSetup shade p0 p1).after i = lineRegsAt shade p0 p1 i := by
  simp [LineRegs.after, lineRegsAt, lineSetup]

/-- The pixels of a line that is not dropped: of each step up to `K` whose pixel passes the tests, its call. -/
theorem mem_lineFrags_iff {da : DrawArea} {shade : Bool} {c : DrawCfg} {p0 p1 : LineVertex} {g : Frag}
    (h : lineTooLong p0 p1 = false) :
    g ∈ lineFrags da shade c p0 p1 ↔
      ∃ i : Nat, (i : Int) ≤ lineK p0 p1 ∧ g = lineCall shade p0 p1 i ∧ linePixelDrawn da c g.x g.y = true := by
  have hk := lineK_nonneg p0 p1
  have hsteps (i : Nat) : i < (lineK p0 p1).toNat + 1 ↔ (i : Int) ≤ lineK p0 p1 := by omega
  simp only [lineFrags, h, Bool.false_eq_true, if_false, mem_lineWalk_iff, lineSetup_after, lineCall, hsteps]

/-- A line never reads a texture (42_line.md R212). -/
theorem noSelfTexture_line (f : LineFlags) (c : DrawCfg) (s : State) (m : Memory) (fs : List Frag) :
    NoSelfTexture (lineShader f c s) m fs :=
  fun htex => absurd htex Bool.false_ne_true

/-- Settles O46: a drawn step is a pixel of the list, apart from the others; a byte of no drawn step's word is named by
no pixel. -/
theorem lineDrawsExactlyItsSteps : Obligations.LineDrawsExactlyItsSteps := by
  unfold Obligations.LineDrawsExactlyItsSteps
  intro f c p0 p1 s hready hm hlong hcov
  have hin : ∀ g ∈ lineFrags s.da f.shade c p0 p1, inVram g.x g.y = true := by
    intro g hg
    obtain ⟨i, hi, rfl, hdrawn⟩ := (mem_lineFrags_iff hlong).mp hg
    exact hcov i hi hdrawn
  refine ⟨_, exec_line_completes hready hin, rfl, fun i hi hdrawn => ?_, fun a hout => ?_⟩
  · exact shadeAll_vread_of_mem hm hin (lineFrags_apart ..) (noSelfTexture_line f c s _ _)
      ((mem_lineFrags_iff hlong).mpr ⟨i, hi, rfl, hdrawn⟩)
  · refine shadeAll_read_of_not_named hin fun x y hx hy hword g hg ⟨hgx, hgy⟩ => ?_
    obtain ⟨i, hi, rfl, hdrawn⟩ := (mem_lineFrags_iff hlong).mp hg
    rw [hgx, hgy, hout i x y hi hx hy hword hgx hgy] at hdrawn
    cases hdrawn

/-! ### Both endpoints (42_line.md R203, R207, R211) -/

/-- A position inside pixel `v` has the coordinate `v`, modulo 2048. -/
theorem lineCoord_of_mem_pixel {cur v : Int} (hlo : v * 2 ^ 32 ≤ cur) (hhi : cur < (v + 1) * 2 ^ 32) :
    lineCoord cur = v % 2048 := by
  have hge : v ≤ asr cur xyFrac := le_asr_iff.mpr hlo
  have hlt : asr cur xyFrac < v + 1 := asr_lt_iff.mpr hhi
  rw [lineCoord, le_antisymm (Int.lt_add_one_iff.mp hlt) hge]
  rfl

/-- Away from zero, a quotient taken `b` times misses its numerator by less than `b`. -/
theorem abs_mul_divAway_sub_lt {a b : Int} (hb : 0 < b) : |b * divAway a b - a| < b := by
  have hnonneg {a : Int} (ha : 0 ≤ a) : |b * divAway a b - a| < b := by
    rcases ha.eq_or_lt with rfl | hpos
    · simpa [divAway, tdiv] using hb
    · rw [divAway, if_neg ha.not_gt, if_pos hpos, tdiv, Int.tdiv_eq_ediv_of_nonneg (by omega), abs_lt]
      have hdivision := Int.mul_ediv_add_emod (a + (b - 1)) b
      have hrest := Int.emod_nonneg (a + (b - 1)) hb.ne'
      have hrest' := Int.emod_lt_of_pos (a + (b - 1)) hb
      omega
  rcases le_total 0 a with ha | ha
  · exact hnonneg ha
  · have hneg := hnonneg (neg_nonneg.mpr ha)
    rwa [divAway_neg, mul_neg, ← neg_sub', abs_neg] at hneg

/-- `K` position steps move by the whole distance, but for at most `K` units. -/
theorem abs_mul_stepXY_sub_le {d k : Int} (hd : |d| ≤ k) : |k * stepXY d k - d * 2 ^ 32| ≤ k := by
  rcases ((abs_nonneg d).trans hd).eq_or_lt with rfl | hk
  · simp [abs_nonpos_iff.mp hd]
  · rw [stepXY, if_pos hk]
    exact (abs_mul_divAway_sub_lt hk).le

/-- A position that starts in pixel `v`: at its middle, or 1024 units before at most (42_line.md R207). -/
def StartsIn (v start : Int) : Prop := v * 2 ^ 32 + 2 ^ 31 - 1024 ≤ start ∧ start ≤ v * 2 ^ 32 + 2 ^ 31

theorem startsIn_startX (x : Int) : StartsIn x (startX x) := by
  unfold StartsIn startX xyFrac
  omega

theorem startsIn_startY (y dydk : Int) : StartsIn y (startY y dydk) := by
  unfold StartsIn startY xyFrac
  split <;> omega

theorem StartsIn.lineCoord_first {v start : Int} (h : StartsIn v start) : lineCoord start = v % 2048 := by
  unfold StartsIn at h
  exact lineCoord_of_mem_pixel (by omega) (by omega)

/-- The last step of an accepted line is in the pixel at the walked distance `d`: neither the bias of the start nor the
rounding of the steps leaves it. -/
theorem StartsIn.lineCoord_last {v start d k : Int} (h : StartsIn v start) (hd : |d| ≤ k) (hk : k < 1024) :
    lineCoord (start + k * stepXY d k) = (v + d) % 2048 := by
  unfold StartsIn at h
  have hnear := abs_le.mp (abs_mul_stepXY_sub_le hd)
  exact lineCoord_of_mem_pixel (by omega) (by omega)

/-- The walked distances are at most `K` (42_line.md R201, R202). -/
theorem abs_canonical_sub_le_lineK (p0 p1 : LineVertex) :
    |(canonical p0 p1).2.pos.xInt - (canonical p0 p1).1.pos.xInt| ≤ lineK p0 p1
      ∧ |(canonical p0 p1).2.pos.yInt - (canonical p0 p1).1.pos.yInt| ≤ lineK p0 p1 := by
  obtain ⟨hdx, hdy⟩ := abs_canonical_sub p0 p1
  exact ⟨hdx.trans_le (le_max_left ..), hdy.trans_le (le_max_right ..)⟩

theorem lineCall_x (shade : Bool) (p0 p1 : LineVertex) (i : Nat) :
    (lineCall shade p0 p1 i).x = lineCoord (startX (canonical p0 p1).1.pos.xInt
      + (i : Int) * stepXY ((canonical p0 p1).2.pos.xInt - (canonical p0 p1).1.pos.xInt) (lineK p0 p1)) := rfl

theorem lineCall_y (shade : Bool) (p0 p1 : LineVertex) (i : Nat) :
    let step := stepXY ((canonical p0 p1).2.pos.yInt - (canonical p0 p1).1.pos.yInt) (lineK p0 p1)
    (lineCall shade p0 p1 i).y = lineCoord (startY (canonical p0 p1).1.pos.yInt step + (i : Int) * step) := rfl

/-- Settles O47: in x and in y, the start is in its pixel and `K` steps move by the walked distance. -/
theorem lineVisitsBothEndpoints : Obligations.LineVisitsBothEndpoints := by
  unfold Obligations.LineVisitsBothEndpoints
  intro shade p0 p1 hlong
  have hk := lineK_lt_of_not_tooLong hlong
  have hsteps : ((lineK p0 p1).toNat : Int) = lineK p0 p1 := Int.toNat_of_nonneg (lineK_nonneg p0 p1)
  obtain ⟨hx, hy⟩ := abs_canonical_sub_le_lineK p0 p1
  simp only [lineCall_x, lineCall_y, hsteps, Nat.cast_zero, zero_mul, add_zero]
  refine ⟨(startsIn_startX _).lineCoord_first, (startsIn_startY ..).lineCoord_first, ?_, ?_⟩
  · rw [(startsIn_startX _).lineCoord_last hx hk, add_sub_cancel]
  · rw [(startsIn_startY ..).lineCoord_last hy hk, add_sub_cancel]

/-! ### The channels of a shaded line (42_line.md R204, R207, R210) -/

/-- Truncated steps never overshoot: up to `k` of them stay between no step and the numerator. -/
theorem mul_tdiv_between {d k i : Int} (hk : 0 < k) (h0 : 0 ≤ i) (hi : i ≤ k) :
    min 0 d ≤ i * tdiv d k ∧ i * tdiv d k ≤ max 0 d := by
  have hnonneg {d : Int} (hd : 0 ≤ d) : 0 ≤ i * tdiv d k ∧ i * tdiv d k ≤ d := by
    rw [tdiv, Int.tdiv_eq_ediv_of_nonneg hd]
    have hq := Int.ediv_nonneg hd hk.le
    exact ⟨mul_nonneg h0 hq, (mul_le_mul_of_nonneg_right hi hq).trans (Int.mul_ediv_self_le hk.ne')⟩
  rcases le_total 0 d with hd | hd
  · rw [min_eq_left hd, max_eq_right hd]
    exact hnonneg hd
  · obtain ⟨hlo, hhi⟩ := hnonneg (neg_nonneg.mpr hd)
    rw [tdiv, Int.neg_tdiv, mul_neg] at hlo hhi
    rw [min_eq_right hd, max_eq_left hd, tdiv]
    omega

/-- The accumulator of a channel, before its byte is taken, lies between the endpoints' bytes. -/
theorem asr_color_between (c0 c1 : Byte) {k i : Int} (hk : 0 < k) (h0 : 0 ≤ i) (hi : i ≤ k) :
    min (byteInt c0) (byteInt c1) ≤ asr (startColor c0 + i * stepColor true c0 c1 k) 12
      ∧ asr (startColor c0 + i * stepColor true c0 c1 k) 12 ≤ max (byteInt c0) (byteInt c1) := by
  have hmove := mul_tdiv_between (d := (byteInt c1 - byteInt c0) * 2 ^ 12) hk h0 hi
  rw [stepColor, if_pos ⟨rfl, hk⟩, startColor, rgbFrac]
  exact ⟨le_asr_iff.mpr (by omega), Int.lt_add_one_iff.mp (asr_lt_iff.mpr (by omega))⟩

theorem byteInt_wrap8 {a : Int} (h0 : 0 ≤ a) (h : a ≤ 255) : byteInt (wrap8 a) = a := by
  rw [byteInt, wrap8, BitVec.toNat_ofInt]
  omega

/-- Settles O48: the accumulator's value is a byte, so the extraction keeps it. -/
theorem lineColourStaysBetweenItsEnds : Obligations.LineColourStaysBetweenItsEnds := by
  unfold Obligations.LineColourStaysBetweenItsEnds
  intro c0 c1 k i hk hi
  have hbetween := asr_color_between c0 c1 hk (Int.natCast_nonneg i) hi
  generalize startColor c0 + (i : Int) * stepColor true c0 c1 k = cur at hbetween ⊢
  have h0 := byteInt_range c0
  have h1 := byteInt_range c1
  have hbyte : byteInt (lineChannel cur) = asr cur 12 := byteInt_wrap8 (a := asr cur 12) (by omega) (by omega)
  unfold byteInt at hbetween hbyte
  omega

end Sys2Proof.Machine

/-!
SUPPORT. The proofs of the family "triangle" (43_triangle.md): the sort and its core vertex, the pixels of a triangle in
closed form, which triangles are dropped, the ranges of the engine's registers, the exact pixels of TRI, and QUAD as its
two triangles.
-/

namespace Sys2Proof.Machine

open Sys2Proof.Config

/-! ### The sort (43_triangle.md R232 to R234) -/

/-- The three vertices in the order the engine holds them. -/
def Sorted.vertices (s : Sorted) : List TriVertex := [s.v0, s.v1, s.v2]

theorem exchangeBC_vertices (s : Sorted) : (exchangeBC s).vertices.Perm s.vertices := by
  unfold exchangeBC
  split
  · exact .cons _ (.swap ..)
  · exact .refl _

theorem exchangeAB_vertices (s : Sorted) : (exchangeAB s).vertices.Perm s.vertices := by
  unfold exchangeAB
  split
  · exact .swap ..
  · exact .refl _

theorem sortY_vertices (a b c : TriVertex) : (sortY a b c).vertices.Perm [a, b, c] :=
  (exchangeBC_vertices _).trans ((exchangeAB_vertices _).trans (exchangeBC_vertices _))

/-- What holds of the three vertices as given holds of the sorted ones. -/
theorem forall_sortY {P : TriVertex → Prop} {a b c : TriVertex} (ha : P a) (hb : P b) (hc : P c) :
    P (sortY a b c).v0 ∧ P (sortY a b c).v1 ∧ P (sortY a b c).v2 := by
  have hgiven : ∀ v ∈ [a, b, c], P v := by simp [ha, hb, hc]
  have hall : ∀ v ∈ (sortY a b c).vertices, P v := fun v hv => hgiven v ((sortY_vertices a b c).mem_iff.mp hv)
  simpa [Sorted.vertices] using hall

/-- The mask is one-hot and its bit marks the vertex `w`. -/
def Sorted.Marks (s : Sorted) (w : TriVertex) : Prop :=
  (s.cvm = 0b001#3 ∧ s.v0 = w) ∨ (s.cvm = 0b010#3 ∧ s.v1 = w) ∨ (s.cvm = 0b100#3 ∧ s.v2 = w)

section
variable {s : Sorted} {w : TriVertex} (h : s.Marks w)
include h

/-- The first and the third exchange take the mark along with its vertex. -/
theorem Sorted.Marks.exchangeBC : (exchangeBC s).Marks w := by
  unfold Machine.exchangeBC
  split
  · rcases h with ⟨hm, hv⟩ | ⟨hm, hv⟩ | ⟨hm, hv⟩ <;> simp [Sorted.Marks, hm, hv]
  · exact h

/-- So does the second. -/
theorem Sorted.Marks.exchangeAB : (exchangeAB s).Marks w := by
  unfold Machine.exchangeAB
  split
  · rcases h with ⟨hm, hv⟩ | ⟨hm, hv⟩ | ⟨hm, hv⟩ <;> simp [Sorted.Marks, hm, hv]
  · exact h

/-- The core vertex is the marked one, and `CORE` its number (43_triangle.md R234). -/
theorem Sorted.Marks.core :
    ((s.cvm = 0b001#3 ∧ s.core = 0) ∨ (s.cvm = 0b010#3 ∧ s.core = 1) ∨ (s.cvm = 0b100#3 ∧ s.core = 2))
      ∧ s.coreVertex = w := by
  unfold Sorted.coreVertex Sorted.core
  rcases h with ⟨hm, hv⟩ | ⟨hm, hv⟩ | ⟨hm, hv⟩ <;> simp [hm, hv]

end

/-- The core mask names a vertex of the smallest x (43_triangle.md R232). -/
theorem coreMask_cases (x0 x1 x2 : Int) :
    (coreMask x0 x1 x2 = 0b001#3 ∧ x0 ≤ x1 ∧ x0 ≤ x2) ∨ (coreMask x0 x1 x2 = 0b010#3 ∧ x1 ≤ x0 ∧ x1 ≤ x2)
      ∨ (coreMask x0 x1 x2 = 0b100#3 ∧ x2 ≤ x0 ∧ x2 ≤ x1) := by
  unfold coreMask
  split_ifs
  · exact .inr (.inr ⟨rfl, by omega, by omega⟩)
  · exact .inr (.inl ⟨rfl, by omega, by omega⟩)
  · exact .inr (.inr ⟨rfl, by omega, by omega⟩)
  · exact .inl ⟨rfl, by omega, by omega⟩

/-- The vertex as given that the core mask names. -/
def coreInput (a b c : TriVertex) : TriVertex :=
  if coreMask a.x b.x c.x = 0b001#3 then a else if coreMask a.x b.x c.x = 0b010#3 then b else c

theorem coreInput_x (a b c : TriVertex) : (coreInput a b c).x = min a.x (min b.x c.x) := by
  unfold coreInput
  rcases coreMask_cases a.x b.x c.x with ⟨hm, h⟩ | ⟨hm, h⟩ | ⟨hm, h⟩ <;> simp [hm] <;> omega

theorem sortY_marks (a b c : TriVertex) : (sortY a b c).Marks (coreInput a b c) := by
  have hgiven : Sorted.Marks ⟨a, b, c, coreMask a.x b.x c.x⟩ (coreInput a b c) := by
    unfold coreInput
    rcases coreMask_cases a.x b.x c.x with ⟨hm, -⟩ | ⟨hm, -⟩ | ⟨hm, -⟩ <;> simp [Sorted.Marks, hm]
  exact hgiven.exchangeBC.exchangeAB.exchangeBC

/-- Settles O50: the exchanges permute the vertices and carry the core mask along. -/
theorem sortKeepsTheCoreVertex : Obligations.SortKeepsTheCoreVertex := by
  unfold Obligations.SortKeepsTheCoreVertex
  intro a b c
  obtain ⟨hupper, hlower⟩ := sortY_rows a b c
  obtain ⟨hcore, hvertex⟩ := (sortY_marks a b c).core
  exact ⟨hupper, hlower, hcore, sortY_vertices a b c, hvertex, hvertex ▸ coreInput_x a b c⟩

/-! ### The attributes of a span in closed form (43_triangle.md R254, R255, R257) -/

theorem wrap32_add (a b : Int) : wrap32 (a + b) = wrap32 a + wrap32 b := BitVec.ofInt_add ..

/-- One more column adds the gradient in x. -/
theorem Plane.valueAt_add_one (p : Plane) (x y : Int) : p.valueAt (x + 1) y = p.valueAt x y + p.ddx := by
  have hone : wrap32 1 = 1 := rfl
  rw [Plane.valueAt, Plane.valueAt, wrap32_add, hone]
  ring

theorem Planes.acc_advance (p : Planes) (x y : Int) : (p.acc x y).advance p = p.acc (x + 1) y := by
  simp only [Planes.acc, Acc.advance, Plane.valueAt_add_one]

/-- The accumulators after `k` pixels are those of a span that starts `k` columns further. -/
theorem Planes.acc_advance_iterate (p : Planes) (x y : Int) (k : Nat) :
    (fun a : Acc => a.advance p)^[k] (p.acc x y) = p.acc (x + (k : Int)) y := by
  induction k with
  | zero => simp
  | succ k ih => rw [Function.iterate_succ_apply', ih, p.acc_advance, Nat.cast_succ, add_assoc]

/-- The shader's call of a triangle at `(x, y)`, at its place in the iteration (10_state.md R40). -/
def triCallAt (p : Planes) (row : RowPos) (x y : Int) : Frag :=
  { triCall p x y with pos := .tri row.second row.half y x }

theorem spanStart_eq_max (da : DrawArea) (lc : Int) : spanStart da lc = max da.l (asr lc xyFrac) := by
  unfold spanStart
  split <;> omega

/-- Clipped, a span ends at its right bound or at the area's (43_triangle.md R253). -/
theorem spanStart_add_spanWidth (da : DrawArea) (lc rc : Int) :
    spanStart da lc + spanWidth da lc rc = min (asr rc xyFrac) (da.r + 1) := by
  unfold spanWidth spanStart
  dsimp only
  split <;> split <;> omega

/-- The columns of a span. -/
theorem exists_lt_spanWidth_iff {da : DrawArea} {lc rc x : Int} :
    (∃ k < (spanWidth da lc rc).toNat, x = spanStart da lc + (k : Int)) ↔
      asr lc xyFrac ≤ x ∧ x < asr rc xyFrac ∧ da.hasCol x = true := by
  have hstart := spanStart_eq_max da lc
  have hend := spanStart_add_spanWidth da lc rc
  rw [DrawArea.hasCol_iff]
  refine ⟨fun ⟨k, hk, hx⟩ => by omega, fun h => ⟨(x - spanStart da lc).toNat, by omega, by omega⟩⟩

/-- The pixels of a span: the columns from its left bound up to but not its right bound, inside the area, the attributes
in closed form. -/
theorem mem_span_iff {da : DrawArea} {c : DrawCfg} {p : Planes} {row : RowPos} {y lc rc : Int} {g : Frag} :
    g ∈ span da c p row y lc rc ↔
      interlaced c y = false ∧ asr lc xyFrac ≤ g.x ∧ g.x < asr rc xyFrac ∧ da.hasCol g.x = true
        ∧ g = triCallAt p row g.x y := by
  unfold span
  cases hrow : interlaced c y with
  | true => simp
  | false =>
    simp only [Bool.false_eq_true, if_false, mem_spanPixels_iff, Planes.acc_advance_iterate, true_and]
    constructor
    · rintro ⟨k, hk, rfl⟩
      obtain ⟨hl, hr, hcol⟩ := exists_lt_spanWidth_iff.mp ⟨k, hk, rfl⟩
      exact ⟨hl, hr, hcol, rfl⟩
    · rintro ⟨hl, hr, hcol, hg⟩
      obtain ⟨k, hk, hx⟩ := exists_lt_spanWidth_iff.mpr ⟨hl, hr, hcol⟩
      exact ⟨k, hk, hx ▸ hg⟩

/-! ### The pixels of a triangle (43_triangle.md R247 to R251, R260) -/

section
variable {da : DrawArea} {c : DrawCfg} {p : Planes} {row : RowPos} {ls rs y lc rc : Int} {g : Frag}

/-- The pixels of row `z`, its bounds stepped from row `y`, in terms of their own row. -/
theorem mem_span_stepped_iff {z : Int} :
    g ∈ span da c p row z (lc + (z - y) * ls) (rc + (z - y) * rs) ↔
      g.y = z ∧ g ∈ span da c p row g.y (lc + (g.y - y) * ls) (rc + (g.y - y) * rs) := by
  constructor
  · intro h
    obtain ⟨hlo, hhi, -⟩ := onRows_of_mem_span h
    have hy : g.y = z := by omega
    exact ⟨hy, by rwa [hy]⟩
  · rintro ⟨rfl, h⟩
    exact h

/-- The pixels of an increment walk: on each of its rows in the area, the span between the stepped bounds
(43_triangle.md R250). -/
theorem mem_walkIncrement_iff {n : Nat} :
    g ∈ walkIncrement da c p row ls rs n y lc rc ↔
      y ≤ g.y ∧ g.y < y + n ∧ da.hasRow g.y = true
        ∧ g ∈ span da c p row g.y (lc + (g.y - y) * ls) (rc + (g.y - y) * rs) := by
  induction n generalizing y lc rc with
  | zero =>
    simp only [walkIncrement, List.not_mem_nil, false_iff]
    omega
  | succ n ih =>
    have hfirst : g ∈ span da c p row y lc rc ↔
        g.y = y ∧ g ∈ span da c p row g.y (lc + (g.y - y) * ls) (rc + (g.y - y) * rs) := by
      rw [← mem_span_stepped_iff, sub_self, zero_mul, zero_mul, add_zero, add_zero]
    have hshift (z e s : Int) : e + s + (z - (y + 1)) * s = e + (z - y) * s := by ring
    unfold walkIncrement
    rw [DrawArea.hasRow_iff]
    split
    · simp only [List.not_mem_nil, false_iff]
      omega
    · rw [List.mem_append, List.mem_ite_nil_right, hfirst, ih, hshift, hshift, DrawArea.hasRow_iff]
      by_cases hspan : g ∈ span da c p row g.y (lc + (g.y - y) * ls) (rc + (g.y - y) * rs)
      · simp only [hspan, and_true]
        omega
      · simp only [hspan, and_false, or_self]

/-- The pixels of a decrement walk: the same on the rows above its start (43_triangle.md R251). -/
theorem mem_walkDecrement_iff {n : Nat} :
    g ∈ walkDecrement da c p row ls rs n y lc rc ↔
      y - n ≤ g.y ∧ g.y < y ∧ da.hasRow g.y = true
        ∧ g ∈ span da c p row g.y (lc + (g.y - y) * ls) (rc + (g.y - y) * rs) := by
  induction n generalizing y lc rc with
  | zero =>
    simp only [walkDecrement, List.not_mem_nil, false_iff]
    omega
  | succ n ih =>
    have hshift (z e s : Int) : e - s + (z - (y - 1)) * s = e + (z - y) * s := by ring
    have hfirst : g ∈ span da c p row (y - 1) (lc - ls) (rc - rs) ↔
        g.y = y - 1 ∧ g ∈ span da c p row g.y (lc + (g.y - y) * ls) (rc + (g.y - y) * rs) := by
      rw [← mem_span_stepped_iff, ← hshift, ← hshift, sub_self, zero_mul, zero_mul, add_zero, add_zero]
    unfold walkDecrement
    rw [DrawArea.hasRow_iff]
    split
    · simp only [List.not_mem_nil, false_iff]
      omega
    · rw [List.mem_append, List.mem_ite_nil_left, hfirst, ih, hshift, hshift, DrawArea.hasRow_iff]
      by_cases hspan : g ∈ span da c p row g.y (lc + (g.y - y) * ls) (rc + (g.y - y) * rs)
      · simp only [hspan, and_true]
        omega
      · simp only [hspan, and_false, or_self]

end

/-- The first row of a half, from above: where a half that is walked down starts and one that is walked up ends. -/
def Half.top (h : Half) : Int := if h.dec then h.yb else h.yc

/-- The row below a half's last. -/
def Half.bottom (h : Half) : Int := if h.dec then h.yc else h.yb

/-- A half's left bound, stepped from its start to row `y` (43_triangle.md R250, R251). -/
def Half.left (h : Half) (y : Int) : Int := h.xcL + (y - h.yc) * h.xsL

/-- A half's right bound, stepped from its start to row `y` (43_triangle.md R250, R251). -/
def Half.right (h : Half) (y : Int) : Int := h.xcR + (y - h.yc) * h.xsR

/-- The pixels of a half, walked up or down: on each of its rows in the area, the span between the stepped bounds. -/
theorem mem_halfFrags_iff {da : DrawArea} {c : DrawCfg} {p : Planes} {row : RowPos} {h : Half} {g : Frag} :
    g ∈ Half.frags da c p row h ↔
      (h.top ≤ g.y ∧ g.y < h.bottom) ∧ da.hasRow g.y = true
        ∧ g ∈ span da c p row g.y (h.left g.y) (h.right g.y) := by
  have hdown (a b : Int) : a - ((a - b).toNat : Int) ≤ g.y ∧ g.y < a ↔ b ≤ g.y ∧ g.y < a := by omega
  have hup (a b : Int) : a ≤ g.y ∧ g.y < a + ((b - a).toNat : Int) ↔ a ≤ g.y ∧ g.y < b := by omega
  unfold Half.frags Half.top Half.bottom
  split
  · rw [mem_walkDecrement_iff, ← and_assoc, hdown]
    rfl
  · rw [mem_walkIncrement_iff, ← and_assoc, hup]
    rfl

section
variable (s : Sorted)

/-- The upper half holds the rows above the middle vertex (43_triangle.md R247). -/
theorem Sorted.upper_rows : s.upper.top = s.v0.y ∧ s.upper.bottom = s.v1.y := by
  unfold Sorted.upper mkHalf Half.top Half.bottom
  cases s.vo <;> exact ⟨rfl, rfl⟩

/-- The lower half holds the rows from the middle vertex down (43_triangle.md R248). -/
theorem Sorted.lower_rows : s.lower.top = s.v1.y ∧ s.lower.bottom = s.v2.y := by
  unfold Sorted.lower mkHalf Half.top Half.bottom
  cases s.vp <;> exact ⟨rfl, rfl⟩

/-- Which half in the order of the walk holds row `y` (43_triangle.md R249). -/
def Sorted.walkedAt (y : Int) : Nat := if decide (y < s.v1.y) = s.vo then 1 else 0

/-- The closed form of the coverage: the row and the column of the half that holds the row. -/
theorem triCovers_iff {da : DrawArea} {c : DrawCfg} {x y : Int} :
    triCovers da c s x y = true ↔
      s.dropped = false ∧ s.v0.y ≤ y ∧ y < s.v2.y ∧ asr ((s.halfAt y).left y) xyFrac ≤ x
        ∧ x < asr ((s.halfAt y).right y) xyFrac ∧ da.hasCol x = true ∧ da.hasRow y = true ∧ interlaced c y = false := by
  simp only [triCovers, Bool.and_eq_true, Bool.not_eq_true', decide_eq_true_eq, and_assoc]
  rfl

end

/-- The pixels of the two halves, whichever is walked first. -/
theorem mem_halves_iff {da : DrawArea} {c : DrawCfg} {p : Planes} {second : Bool} {s : Sorted} {g : Frag}
    (hrows : s.v0.y ≤ s.v1.y ∧ s.v1.y ≤ s.v2.y) :
    g ∈ Half.frags da c p ⟨second, 0⟩ s.half0 ++ Half.frags da c p ⟨second, 1⟩ s.half1 ↔
      (s.v0.y ≤ g.y ∧ g.y < s.v2.y) ∧ da.hasRow g.y = true
        ∧ g ∈ span da c p ⟨second, s.walkedAt g.y⟩ g.y ((s.halfAt g.y).left g.y) ((s.halfAt g.y).right g.y) := by
  have hupper (row : RowPos) := mem_halfFrags_iff (da := da) (c := c) (p := p) (row := row) (h := s.upper) (g := g)
  have hlower (row : RowPos) := mem_halfFrags_iff (da := da) (c := c) (p := p) (row := row) (h := s.lower) (g := g)
  rw [s.upper_rows.1, s.upper_rows.2] at hupper
  rw [s.lower_rows.1, s.lower_rows.2] at hlower
  rw [List.mem_append]
  unfold Sorted.half0 Sorted.half1 Sorted.halfAt Sorted.walkedAt
  by_cases hy : g.y < s.v1.y
  · have hnotLower : ¬s.v1.y ≤ g.y := by omega
    have hbelow : g.y < s.v2.y := by omega
    cases s.vo <;> simp [hupper, hlower, hy, hnotLower, hbelow]
  · have hlow : s.v1.y ≤ g.y := by omega
    have habove : s.v0.y ≤ g.y := by omega
    cases s.vo <;> simp [hupper, hlower, hy, hlow, habove]

theorem sortedOf_rows (a b c : Vertex) :
    (sortedOf a b c).v0.y ≤ (sortedOf a b c).v1.y ∧ (sortedOf a b c).v1.y ≤ (sortedOf a b c).v2.y := sortY_rows ..

theorem triangleFrags_eq (da : DrawArea) (cfg : DrawCfg) (f : PolyFlags) (second : Bool) (a b c : Vertex) :
    triangleFrags da cfg f second a b c =
      if (sortedOf a b c).dropped then []
      else Half.frags da cfg ((sortedOf a b c).planes f.shade f.tex) ⟨second, 0⟩ (sortedOf a b c).half0
        ++ Half.frags da cfg ((sortedOf a b c).planes f.shade f.tex) ⟨second, 1⟩ (sortedOf a b c).half1 := rfl

/-- The pixels of a triangle: where it covers, each with its call in closed form (43_triangle.md R257, R260). -/
theorem mem_triangleFrags_iff {da : DrawArea} {cfg : DrawCfg} {f : PolyFlags} {second : Bool} {a b c : Vertex}
    {g : Frag} :
    g ∈ triangleFrags da cfg f second a b c ↔
      triCovers da cfg (sortedOf a b c) g.x g.y = true
        ∧ g = triCallAt ((sortedOf a b c).planes f.shade f.tex) ⟨second, (sortedOf a b c).walkedAt g.y⟩ g.x g.y := by
  rw [triangleFrags_eq, List.mem_ite_nil_left, mem_halves_iff (sortedOf_rows a b c), mem_span_iff, triCovers_iff,
    Bool.not_eq_true]
  tauto

/-- A covered pixel's call is one of the triangle's. -/
theorem exists_mem_triangleFrags_iff {da : DrawArea} {cfg : DrawCfg} {f : PolyFlags} {second : Bool} {a b c : Vertex}
    {x y : Int} :
    (∃ g ∈ triangleFrags da cfg f second a b c, g.x = x ∧ g.y = y) ↔ triCovers da cfg (sortedOf a b c) x y = true := by
  constructor
  · rintro ⟨g, hg, rfl, rfl⟩
    exact (mem_triangleFrags_iff.mp hg).1
  · exact fun h => ⟨triCallAt _ ⟨second, (sortedOf a b c).walkedAt y⟩ x y, mem_triangleFrags_iff.mpr ⟨h, rfl⟩, rfl, rfl⟩

/-- Settles O53: a pixel's accumulators have advanced from the span's start to its column. -/
theorem triangleAttributesHaveTheClosedForm : Obligations.TriangleAttributesHaveTheClosedForm := by
  unfold Obligations.TriangleAttributesHaveTheClosedForm
  intro da cfg f second a b c g hg
  obtain ⟨-, hcall⟩ := mem_triangleFrags_iff.mp hg
  rw [hcall]
  rfl

/-- Settles O54: a walk, up or down, steps the bounds from the start of its half. -/
theorem triangleCoverageIsTheSteppedBounds : Obligations.TriangleCoverageIsTheSteppedBounds :=
  fun _ _ _ _ _ _ _ _ _ => exists_mem_triangleFrags_iff

/-! ### Disabled attributes (43_triangle.md R244) -/

/-- The accumulator's origin holds the byte, and half a unit, in its top bits (43_triangle.md R245). -/
theorem topByte_wrap32_origin (b : Byte) :
    topByte (wrap32 ((byteInt b * 2 ^ coordFbs + 2048) * 2 ^ coordPostPadding)) = b := by
  have horigin :
      (byteInt b * 2 ^ coordFbs + 2048) * 2 ^ coordPostPadding = ((b.toNat * 2 ^ 24 + 2 ^ 23 : Nat) : Int) := by
    unfold byteInt coordFbs coordPostPadding
    omega
  rw [horigin, wrap32, BitVec.ofInt_natCast, topByte]
  apply BitVec.eq_of_toNat_eq
  rw [BitVec.extractLsb'_toNat, BitVec.toNat_ofNat, Nat.shiftRight_eq_div_pow]
  omega

/-- Without gradients the value is the core vertex's everywhere. -/
theorem Sorted.topByte_plane_disabled (s : Sorted) (a : TriVertex → Byte) (x y : Int) :
    topByte ((s.plane false a).valueAt x y) = a s.coreVertex := by
  simp [Sorted.plane, Plane.valueAt, topByte_wrap32_origin]

/-- Settles O52. -/
theorem disabledAttributesAreTheCoreVertexs : Obligations.DisabledAttributesAreTheCoreVertexs := by
  unfold Obligations.DisabledAttributesAreTheCoreVertexs
  intro da cfg f second a b c g hg
  obtain ⟨-, hcall⟩ := mem_triangleFrags_iff.mp hg
  rw [hcall]
  refine ⟨fun hshade => ?_, fun htex => ?_⟩
  · simp [triCallAt, triCall, Sorted.planes, hshade, Sorted.topByte_plane_disabled]
  · simp [triCallAt, triCall, Sorted.planes, htex, Sorted.topByte_plane_disabled]

/-! ### Which triangles are dropped (43_triangle.md R235, R236, R241) -/

/-- How far apart the three vertices are in the coordinate `i`. -/
def Sorted.spread (s : Sorted) (i : TriVertex → Int) : Int :=
  max (i s.v0) (max (i s.v1) (i s.v2)) - min (i s.v0) (min (i s.v1) (i s.v2))

section
variable (s : Sorted) (i : TriVertex → Int)

theorem exchangeBC_spread : (exchangeBC s).spread i = s.spread i := by
  unfold exchangeBC Sorted.spread
  split
  · rw [max_comm (i s.v2), min_comm (i s.v2)]
  · rfl

theorem exchangeAB_spread : (exchangeAB s).spread i = s.spread i := by
  unfold exchangeAB Sorted.spread
  split
  · rw [max_left_comm, min_left_comm]
  · rfl

/-- Exchanging two vertices changes the sign of `DEN` alone. -/
theorem exchangeBC_den : (exchangeBC s).den = 0 ↔ s.den = 0 := by
  unfold exchangeBC Sorted.den Sorted.calcis
  split
  · constructor <;> intro h <;> linear_combination -h
  · rfl

theorem exchangeAB_den : (exchangeAB s).den = 0 ↔ s.den = 0 := by
  unfold exchangeAB Sorted.den Sorted.calcis
  split
  · constructor <;> intro h <;> linear_combination -h
  · rfl

end

/-- The three vertices of a command in the order given. -/
def givenOf (a b c : Vertex) : Sorted :=
  ⟨triVertex a, triVertex b, triVertex c, coreMask a.pos.xInt b.pos.xInt c.pos.xInt⟩

theorem sortedOf_spread (a b c : Vertex) (i : TriVertex → Int) :
    (sortedOf a b c).spread i = (givenOf a b c).spread i :=
  (exchangeBC_spread ..).trans ((exchangeAB_spread ..).trans (exchangeBC_spread ..))

theorem sortedOf_den (a b c : Vertex) : (sortedOf a b c).den = 0 ↔ (givenOf a b c).den = 0 :=
  (exchangeBC_den _).trans ((exchangeAB_den _).trans (exchangeBC_den _))

/-- Two of three integers differ by `d` or more exactly when the largest and the smallest do. -/
theorem le_spread_iff {d x y z : Int} (hd : 0 < d) :
    d ≤ max x (max y z) - min x (min y z) ↔ d ≤ |x - y| ∨ d ≤ |y - z| ∨ d ≤ |z - x| := by
  simp only [Int.abs_eq_natAbs]
  omega

theorem degenerateTriangle_iff {a b c : Vertex} :
    DegenerateTriangle a b c ↔
      (givenOf a b c).spread TriVertex.y = 0 ∨ 1024 ≤ (givenOf a b c).spread TriVertex.x
        ∨ 512 ≤ (givenOf a b c).spread TriVertex.y ∨ (givenOf a b c).den = 0 := by
  have hflat : (givenOf a b c).spread TriVertex.y = 0 ↔ a.pos.yInt = b.pos.yInt ∧ b.pos.yInt = c.pos.yInt := by
    unfold Sorted.spread givenOf triVertex
    dsimp only
    omega
  have hx : 1024 ≤ (givenOf a b c).spread TriVertex.x ↔ _ := le_spread_iff (by norm_num)
  have hy : 512 ≤ (givenOf a b c).spread TriVertex.y ↔ _ := le_spread_iff (by norm_num)
  have hden : (givenOf a b c).den = 0 ↔ _ := sub_eq_zero
  rw [hflat, hx, hy, hden, DegenerateTriangle]
  simp only [or_assoc]
  rfl

/-- The same of the sorted vertices, where the rows are in order. -/
theorem Sorted.dropped_iff {s : Sorted} (hrows : s.v0.y ≤ s.v1.y ∧ s.v1.y ≤ s.v2.y) :
    s.dropped = true ↔
      s.spread TriVertex.y = 0 ∨ 1024 ≤ s.spread TriVertex.x ∨ 512 ≤ s.spread TriVertex.y ∨ s.den = 0 := by
  have htall : s.spread TriVertex.y = s.v2.y - s.v0.y := by
    unfold Sorted.spread
    omega
  have hwide : 1024 ≤ s.spread TriVertex.x ↔
      1024 ≤ |s.v2.x - s.v0.x| ∨ 1024 ≤ |s.v2.x - s.v1.x| ∨ 1024 ≤ |s.v1.x - s.v0.x| := by
    rw [Sorted.spread, le_spread_iff (by norm_num), abs_sub_comm s.v0.x s.v1.x, abs_sub_comm s.v1.x s.v2.x]
    tauto
  simp only [Sorted.dropped, Sorted.flat, Sorted.oversized, Bool.or_eq_true, beq_iff_eq, decide_eq_true_eq,
    ← Int.abs_eq_natAbs, maxPrimitiveWidth, maxPrimitiveHeight, htall, hwide, sub_eq_zero, eq_comm (a := s.v2.y),
    or_assoc]

theorem dropped_iff_degenerateTriangle {a b c : Vertex} :
    (sortedOf a b c).dropped = true ↔ DegenerateTriangle a b c := by
  rw [Sorted.dropped_iff (sortedOf_rows a b c), sortedOf_spread, sortedOf_spread, sortedOf_den, degenerateTriangle_iff]

/-- A triangle whose pixels all lie in VRAM completes, a dropped one among them. -/
theorem exec_tri_completes {f : PolyFlags} {c : DrawCfg} {v0 v1 v2 : Vertex} {s : State} (hr : s.ready = true)
    (hw : WellFormed (.tri f c v0 v1 v2) = true)
    (hin : ∀ g ∈ triangleFrags s.da c f false v0 v1 v2, inVram g.x g.y = true) :
    exec (.tri f c v0 v1 v2) s =
      .next { s with mem := shadeAll (polyShader f c s) s.mem (triangleFrags s.da c f false v0 v1 v2), cl := none,
                     seq := .idle } := by
  obtain ⟨hseq, hset⟩ : s.seq = .idle ∧ s.da.set = true := by simpa [State.ready] using hr
  exact execDraw_completes hseq hset hw hin

/-- Settles O51: the sort changes neither how far apart the vertices are nor whether they are collinear, and a dropped
triangle has no pixels. -/
theorem degenerateTriangleIsDropped : Obligations.DegenerateTriangleIsDropped := by
  unfold Obligations.DegenerateTriangleIsDropped
  intro v0 v1 v2
  refine ⟨dropped_iff_degenerateTriangle.mpr, fun h => Bool.eq_false_iff.mpr (dropped_iff_degenerateTriangle.not.mpr h),
    fun f c s hready hw h => ?_⟩
  have hnone : triangleFrags s.da c f false v0 v1 v2 = [] := if_pos (dropped_iff_degenerateTriangle.mpr h)
  rw [exec_tri_completes hready hw (by simp [hnone]), hnone, shadeAll_nil]

/-! ### The bounds of a triangle's rows (43_triangle.md R237 to R240, R247, R248, R260) -/

theorem inColumns_xfp {lo hi x : Int} (h : lo ≤ x ∧ x ≤ hi) : InColumns lo hi (xfp x) :=
  inColumns_of_bounds (k := 0) (by norm_num) (by unfold xfp xyFrac; omega) (by unfold xfp xyFrac; omega)

/-- Both bounds of row `y` are in the columns `lo` to `hi`. -/
def Half.BoundsIn (h : Half) (lo hi y : Int) : Prop := InColumns lo hi (h.left y) ∧ InColumns lo hi (h.right y)

theorem boundsIn_mkHalf {rf dec : Bool} {sx ss lx lstep yc yb lo hi y : Int}
    (hshort : InColumns lo hi (sx + (y - yc) * ss)) (hlong : InColumns lo hi (lx + (y - yc) * lstep)) :
    (mkHalf rf sx ss lx lstep yc yb dec).BoundsIn lo hi y := by
  cases rf with
  | true => exact ⟨hlong, hshort⟩
  | false => exact ⟨hshort, hlong⟩

section
variable {s : Sorted} {lo hi y : Int} (hf : s.Fits lo hi)
include hf

/-- A half between the vertices `a` and `b`, walked down from `a` or up from `b`: its bounds stay in the columns of the
three vertices, on the row below its last too. -/
theorem Sorted.Fits.boundsIn_half {a b : TriVertex} {step : Int} {dec : Bool} (hflat : s.v0.y < s.v2.y)
    (ha : lo ≤ a.x ∧ a.x ≤ hi) (hb : lo ≤ b.x ∧ b.x ≤ hi) (h0 : s.v0.y ≤ a.y) (h2 : b.y ≤ s.v2.y)
    (hstep : step = if b.y = a.y then 0 else xStep (b.x - a.x) (b.y - a.y)) (hy : a.y ≤ y) (hy' : y ≤ b.y) :
    (mkHalf s.rf (xfp (if dec then b else a).x) step (s.longAt (if dec then b else a).y) s.baseStep
      (if dec then b else a).y (if dec then a else b).y dec).BoundsIn lo hi y := by
  have htall := hf.tall
  refine boundsIn_mkHalf ?_ ?_
  · rcases eq_or_ne b.y a.y with hab | hab
    · rw [hstep, if_pos hab, mul_zero, add_zero]
      cases dec
      · exact inColumns_xfp ha
      · exact inColumns_xfp hb
    · have hrows : 0 < b.y - a.y := by omega
      have hmax : b.y - a.y < 2048 := by omega
      rw [hstep, if_neg hab]
      cases dec
      · exact inColumns_from_upper ha hb hy hy' hrows hmax
      · exact inColumns_from_lower ha hb hy hy' hrows hmax
  · rw [s.longAt_add]
    exact inColumns_from_upper hf.v0 hf.v2 (by omega) (by omega) (by omega) htall

variable (hflat : s.v0.y < s.v2.y)
include hflat

theorem Sorted.Fits.boundsIn_upper (hy : s.v0.y ≤ y) (hy' : y ≤ s.v1.y) : s.upper.BoundsIn lo hi y :=
  hf.boundsIn_half hflat hf.v0 hf.v1 le_rfl hf.rows.2 rfl hy hy'

theorem Sorted.Fits.boundsIn_lower (hy : s.v1.y ≤ y) (hy' : y ≤ s.v2.y) : s.lower.BoundsIn lo hi y :=
  hf.boundsIn_half hflat hf.v1 hf.v2 hf.rows.1 le_rfl rfl hy hy'

theorem Sorted.Fits.boundsIn_halfAt (hy : s.v0.y ≤ y) (hy' : y ≤ s.v2.y) : (s.halfAt y).BoundsIn lo hi y := by
  unfold Sorted.halfAt
  split
  · exact hf.boundsIn_upper hflat hy (by omega)
  · exact hf.boundsIn_lower hflat (by omega) hy'

end

/-- A triangle that is not dropped is not flat, smaller than the limits, and not collinear. -/
theorem Sorted.kept_of_not_dropped {s : Sorted} (h : s.dropped = false) :
    s.v0.y ≠ s.v2.y ∧ s.oversized = false ∧ s.den ≠ 0 := by
  simpa [Sorted.dropped, Sorted.flat, and_assoc] using h

/-- The vertices of a triangle that is not dropped, in the columns `lo` to `hi` if the given ones are. -/
theorem sortedOf_fits {a b c : Vertex} {lo hi : Int} (hkept : (sortedOf a b c).dropped = false)
    (ha : lo ≤ a.pos.xInt ∧ a.pos.xInt ≤ hi) (hb : lo ≤ b.pos.xInt ∧ b.pos.xInt ≤ hi)
    (hc : lo ≤ c.pos.xInt ∧ c.pos.xInt ≤ hi) :
    (sortedOf a b c).Fits lo hi ∧ (sortedOf a b c).v0.y < (sortedOf a b c).v2.y := by
  have hrows := sortedOf_rows a b c
  obtain ⟨hflat, hsize, -⟩ := Sorted.kept_of_not_dropped hkept
  obtain ⟨htall, -⟩ := Sorted.fits_of_not_oversized hrows hsize
  obtain ⟨h0, h1, h2⟩ := forall_sortY (P := fun v => lo ≤ v.x ∧ v.x ≤ hi) (a := triVertex a) (b := triVertex b)
    (c := triVertex c) ha hb hc
  exact ⟨⟨h0, h1, h2, hrows, by omega⟩, by omega⟩

/-- Settles O55: the bounds of a row stay in the columns of the vertices. -/
theorem triangleStaysInItsBoundingBox : Obligations.TriangleStaysInItsBoundingBox := by
  unfold Obligations.TriangleStaysInItsBoundingBox
  intro da cfg f second a b c g hg
  obtain ⟨hkept, hy, hy', hleft, hright, -⟩ := (triCovers_iff _).mp (mem_triangleFrags_iff.mp hg).1
  obtain ⟨hfits, hflat⟩ := sortedOf_fits (lo := min a.pos.xInt (min b.pos.xInt c.pos.xInt))
    (hi := max a.pos.xInt (max b.pos.xInt c.pos.xInt)) hkept (by omega) (by omega) (by omega)
  obtain ⟨⟨hl, -⟩, -, hr⟩ := hfits.boundsIn_halfAt hflat hy hy'.le
  obtain ⟨h0, -, h2⟩ := forall_sortY
    (P := fun v => min a.pos.yInt (min b.pos.yInt c.pos.yInt) ≤ v.y ∧ v.y ≤ max a.pos.yInt (max b.pos.yInt c.pos.yInt))
    (a := triVertex a) (b := triVertex b) (c := triVertex c) (by unfold triVertex; dsimp only; omega)
    (by unfold triVertex; dsimp only; omega) (by unfold triVertex; dsimp only; omega)
  exact ⟨hl.trans hleft, hright.trans_le hr, h0.1.trans hy, hy'.trans_le h2.2⟩

/-! ### The ranges of the triangle engine's registers (43_triangle.md R259) -/

/-- The edges of a triangle that is not too large (43_triangle.md R236). -/
theorem Sorted.edges_of_not_oversized {s : Sorted} (hrows : s.v0.y ≤ s.v1.y ∧ s.v1.y ≤ s.v2.y)
    (h : s.oversized = false) :
    (|s.v2.x - s.v0.x| ≤ 1023 ∧ |s.v2.x - s.v1.x| ≤ 1023 ∧ |s.v1.x - s.v0.x| ≤ 1023)
      ∧ |s.v2.y - s.v1.y| ≤ 511 ∧ |s.v1.y - s.v0.y| ≤ 511 := by
  simp only [Sorted.oversized, Bool.or_eq_false_iff, decide_eq_false_iff_not, not_le, maxPrimitiveWidth,
    maxPrimitiveHeight, ← Int.abs_eq_natAbs] at h
  obtain ⟨⟨⟨h02, h12⟩, h01⟩, htall⟩ := h
  rw [abs_of_nonneg (sub_nonneg.mpr hrows.1), abs_of_nonneg (sub_nonneg.mpr hrows.2)]
  omega

theorem abs_xStep_le {dx dy m : Int} (hdx : |dx| ≤ m) (hdy : 0 < dy) : |xStep dx dy| ≤ m * 2 ^ 32 := by
  refine abs_divAway_le hdy ?_
  rw [abs_mul, xyFrac, abs_of_pos (by norm_num : (0 : Int) < 2 ^ 32)]
  nlinarith [abs_nonneg dx]

/-- Both steps of a half are below `2^52`. -/
def Half.StepsBelow (h : Half) : Prop := |h.xsL| < 2 ^ 52 ∧ |h.xsR| < 2 ^ 52

theorem stepsBelow_mkHalf {rf dec : Bool} {sx ss lx lstep yc yb : Int} (hs : |ss| < 2 ^ 52) (hl : |lstep| < 2 ^ 52) :
    (mkHalf rf sx ss lx lstep yc yb dec).StepsBelow := by
  cases rf with
  | true => exact ⟨hl, hs⟩
  | false => exact ⟨hs, hl⟩

/-- The steps of a triangle that is not flat and not too large. -/
theorem Sorted.stepsBelow {s : Sorted} (hrows : s.v0.y ≤ s.v1.y ∧ s.v1.y ≤ s.v2.y) (hflat : s.v0.y < s.v2.y)
    (h : s.oversized = false) : s.upper.StepsBelow ∧ s.lower.StepsBelow := by
  obtain ⟨⟨h02, h12, h01⟩, -⟩ := Sorted.edges_of_not_oversized hrows h
  have hedge {dx dy : Int} (hdx : |dx| ≤ 1023) (hdy : 0 < dy) : |xStep dx dy| < 2 ^ 52 :=
    (abs_xStep_le hdx hdy).trans_lt (by norm_num)
  have hbase : |s.baseStep| < 2 ^ 52 := hedge h02 (by omega)
  refine ⟨stepsBelow_mkHalf ?_ hbase, stepsBelow_mkHalf ?_ hbase⟩
  · unfold Sorted.us
    split
    · norm_num
    · exact hedge h01 (by omega)
  · unfold Sorted.ls
    split
    · norm_num
    · exact hedge h12 (by omega)

/-- A position in the columns of signed 11-bit coordinates is below `2^52`. -/
theorem InColumns.abs_lt_two_pow {a : Int} (h : InColumns (-1024) 1023 a) : |a| < 2 ^ 52 := by
  rw [InColumns, ← Int.lt_add_one_iff (b := 1023), le_asr_iff, asr_lt_iff, xyFrac] at h
  rw [abs_lt]
  omega

/-- A half's bounds and steps are below `2^52`, at its start and its end row too. -/
def Half.NeverWraps (h : Half) : Prop :=
  |h.xsL| < 2 ^ 52 ∧ |h.xsR| < 2 ^ 52
    ∧ ∀ y : Int, min h.yc h.yb ≤ y → y ≤ max h.yc h.yb → |h.left y| < 2 ^ 52 ∧ |h.right y| < 2 ^ 52

/-- So it is if its bounds are in the columns of the coordinates from its top row to the row below its last. -/
theorem Half.StepsBelow.neverWraps {h : Half} (hsteps : h.StepsBelow) (hrows : h.top ≤ h.bottom)
    (hbounds : ∀ y, h.top ≤ y → y ≤ h.bottom → h.BoundsIn (-1024) 1023 y) : h.NeverWraps := by
  obtain ⟨hl, hr⟩ := hsteps
  refine ⟨hl, hr, fun y hy hy' => ?_⟩
  have hends : min h.yc h.yb = h.top ∧ max h.yc h.yb = h.bottom := by
    revert hrows
    unfold Half.top Half.bottom
    split <;> omega
  obtain ⟨hleft, hright⟩ := hbounds y (hends.1 ▸ hy) (hends.2 ▸ hy')
  exact ⟨hleft.abs_lt_two_pow, hright.abs_lt_two_pow⟩

/-- Neither half of a triangle that is not dropped wraps, its vertices being signed 11-bit coordinates. -/
theorem Sorted.Fits.neverWraps {s : Sorted} (hf : s.Fits (-1024) 1023) (hflat : s.v0.y < s.v2.y)
    (h : s.oversized = false) : s.upper.NeverWraps ∧ s.lower.NeverWraps := by
  obtain ⟨hupper, hlower⟩ := Sorted.stepsBelow hf.rows hflat h
  obtain ⟨hut, hub⟩ := s.upper_rows
  obtain ⟨hlt, hlb⟩ := s.lower_rows
  refine ⟨hupper.neverWraps ?_ fun y hy hy' => ?_, hlower.neverWraps ?_ fun y hy hy' => ?_⟩
  · rw [hut, hub]
    exact hf.rows.1
  · exact hf.boundsIn_upper hflat (hut ▸ hy) (hub ▸ hy')
  · rw [hlt, hlb]
    exact hf.rows.2
  · exact hf.boundsIn_lower hflat (hlt ▸ hy) (hlb ▸ hy')

/-- A cross term of coordinates that differ by at most `m` and `n` along the edges (43_triangle.md R242). -/
theorem Sorted.abs_calcis_le {s : Sorted} {i j : TriVertex → Int} {m n : Int} (hi1 : |i s.v1 - i s.v0| ≤ m)
    (hi2 : |i s.v2 - i s.v1| ≤ m) (hj1 : |j s.v1 - j s.v0| ≤ n) (hj2 : |j s.v2 - j s.v1| ≤ n) :
    |s.calcis i j| ≤ 2 * (m * n) := by
  have hm : 0 ≤ m := (abs_nonneg _).trans hi1
  calc |s.calcis i j| ≤ |i s.v1 - i s.v0| * |j s.v2 - j s.v1| + |i s.v2 - i s.v1| * |j s.v1 - j s.v0| := by
        rw [← abs_mul, ← abs_mul]
        exact abs_sub ..
    _ ≤ m * n + m * n := by gcongr
    _ = 2 * (m * n) := by ring

theorem abs_byteInt_sub_le (b c : Byte) : |byteInt b - byteInt c| ≤ 255 := by
  have hb := byteInt_range b
  have hc := byteInt_range c
  rw [abs_le]
  omega

/-- Settles O56: the bounds stay in the columns of the vertices, which are signed 11-bit coordinates, and the products
are bounded by the edges. -/
theorem triangleRegistersNeverWrap : Obligations.TriangleRegistersNeverWrap := by
  unfold Obligations.TriangleRegistersNeverWrap
  intro a b c attr hkept
  have hrange (v : Vertex) : -1024 ≤ v.pos.xInt ∧ v.pos.xInt ≤ 1023 := by
    have := xInt_range v.pos
    omega
  obtain ⟨hfits, hflat⟩ := sortedOf_fits hkept (hrange a) (hrange b) (hrange c)
  obtain ⟨-, hsize, -⟩ := Sorted.kept_of_not_dropped hkept
  generalize sortedOf a b c = s at hfits hflat hsize ⊢
  obtain ⟨⟨-, hx12, hx01⟩, hy12, hy01⟩ := Sorted.edges_of_not_oversized hfits.rows hsize
  obtain ⟨hupper, hlower⟩ := hfits.neverWraps hflat hsize
  have ha1 := abs_byteInt_sub_le (attr s.v1) (attr s.v0)
  have ha2 := abs_byteInt_sub_le (attr s.v2) (attr s.v1)
  have hprod {i j : TriVertex → Int} {m : Int} (h : |s.calcis i j| ≤ 2 * m) (hm : m ≤ 1023 * 255) :
      |s.calcis i j * 4096| < 2 ^ 31 := by
    rw [abs_mul, abs_of_pos (by norm_num : (0 : Int) < 4096)]
    omega
  exact ⟨List.forall_mem_cons.mpr ⟨hupper, List.forall_mem_singleton.mpr hlower⟩,
    (Sorted.abs_calcis_le hx01 hx12 hy01 hy12).trans_lt (by norm_num),
    hprod (Sorted.abs_calcis_le ha1 ha2 hy01 hy12) (by norm_num),
    hprod (Sorted.abs_calcis_le hx01 hx12 ha1 ha2) (by norm_num)⟩

/-! ### TRI (43_triangle.md R230) -/

/-- Where a triangle covers VRAM alone, all its pixels lie in VRAM. -/
theorem inVram_of_covers {da : DrawArea} {cfg : DrawCfg} {f : PolyFlags} {second : Bool} {a b c : Vertex}
    (h : ∀ x y : Int, triCovers da cfg (sortedOf a b c) x y = true → inVram x y = true) :
    ∀ g ∈ triangleFrags da cfg f second a b c, inVram g.x g.y = true :=
  fun _ hg => h _ _ (mem_triangleFrags_iff.mp hg).1

/-- Settles O57: a byte of no covered word is named by no pixel. -/
theorem triCompletesInsideItsCoverage : Obligations.TriCompletesInsideItsCoverage := by
  unfold Obligations.TriCompletesInsideItsCoverage
  intro f c v0 v1 v2 s hready hw hcov
  have hin := inVram_of_covers (f := f) (second := false) hcov
  refine ⟨_, exec_tri_completes hready hw hin, rfl, fun a hout => ?_⟩
  refine shadeAll_read_of_not_named hin fun x y hx hy hword g hg hxy => ?_
  have hcovered := exists_mem_triangleFrags_iff.mp ⟨g, hg, hxy⟩
  rw [hout x y hx hy hword] at hcovered
  cases hcovered

/-- A triangle's call at a pixel is its closed form, but for the position (43_triangle.md R257). -/
theorem unplaced_of_mem_triangleFrags {da : DrawArea} {cfg : DrawCfg} {f : PolyFlags} {second : Bool} {a b c : Vertex}
    {g : Frag} (h : g ∈ triangleFrags da cfg f second a b c) :
    g.unplaced = triCall ((sortedOf a b c).planes f.shade f.tex) g.x g.y := by
  obtain ⟨-, hcall⟩ := mem_triangleFrags_iff.mp h
  rw [hcall]
  rfl

/-- Settles O58: a covered word is named by one pixel, which reads nothing the others write. -/
theorem triDrawsExactlyItsPixels : Obligations.TriDrawsExactlyItsPixels := by
  unfold Obligations.TriDrawsExactlyItsPixels
  intro f c v0 v1 v2 s hready hw hcov hm hno
  have hin := inVram_of_covers (f := f) (second := false) hcov
  refine ⟨_, exec_tri_completes hready hw hin, rfl, fun x y hx _ => ?_⟩
  rw [State.vram_eq, State.vram_eq]
  split
  · rename_i hcovered
    obtain ⟨g, hg, hgx, hgy⟩ := exists_mem_triangleFrags_iff.mpr hcovered
    have hsame := shadeAll_vread_of_mem hm hin (triangleFrags_apart ..) hno hg
    rw [← wordAfter_unplaced, unplaced_of_mem_triangleFrags hg] at hsame
    simpa only [hgx, hgy, Int.toNat_natCast] using hsame
  · rename_i hcovered
    exact shadeAll_vread_ne hx hin fun g hg hxy => hcovered (exists_mem_triangleFrags_iff.mp ⟨g, hg, hxy⟩)

/-! ### QUAD (43_triangle.md R261, R262) -/

section
variable {da : DrawArea} {c : DrawCfg} {p : Planes}

/-! The place of a row in the iteration is nothing but the position of its pixels. -/

theorem unplaced_spanPixels (row row' : RowPos) (y : Int) (n : Nat) (x : Int) (a : Acc) :
    (spanPixels p row y n x a).map Frag.unplaced = (spanPixels p row' y n x a).map Frag.unplaced := by
  induction n generalizing x a with
  | zero => rfl
  | succ n ih =>
    rw [spanPixels, spanPixels, List.map_cons, List.map_cons, ih]
    rfl

theorem unplaced_span (row row' : RowPos) (y lc rc : Int) :
    (span da c p row y lc rc).map Frag.unplaced = (span da c p row' y lc rc).map Frag.unplaced := by
  unfold span
  split
  · rfl
  · exact unplaced_spanPixels ..

theorem unplaced_walkIncrement (row row' : RowPos) (ls rs : Int) (n : Nat) (y lc rc : Int) :
    (walkIncrement da c p row ls rs n y lc rc).map Frag.unplaced =
      (walkIncrement da c p row' ls rs n y lc rc).map Frag.unplaced := by
  induction n generalizing y lc rc with
  | zero => rfl
  | succ n ih =>
    unfold walkIncrement
    split
    · rfl
    · rw [List.map_append, List.map_append, ih, apply_ite (List.map _), apply_ite (List.map _), unplaced_span row row']

theorem unplaced_walkDecrement (row row' : RowPos) (ls rs : Int) (n : Nat) (y lc rc : Int) :
    (walkDecrement da c p row ls rs n y lc rc).map Frag.unplaced =
      (walkDecrement da c p row' ls rs n y lc rc).map Frag.unplaced := by
  induction n generalizing y lc rc with
  | zero => rfl
  | succ n ih =>
    unfold walkDecrement
    split
    · rfl
    · rw [List.map_append, List.map_append, ih, apply_ite (List.map _), apply_ite (List.map _), unplaced_span row row']

theorem unplaced_halfFrags (row row' : RowPos) (h : Half) :
    (Half.frags da c p row h).map Frag.unplaced = (Half.frags da c p row' h).map Frag.unplaced := by
  unfold Half.frags
  split
  · exact unplaced_walkDecrement ..
  · exact unplaced_walkIncrement ..

end

/-- A quad's second triangle shades as the same triangle does alone. -/
theorem shadeAll_second (sh : Shader) (m : Memory) (da : DrawArea) (cfg : DrawCfg) (f : PolyFlags) (a b c : Vertex) :
    shadeAll sh m (triangleFrags da cfg f true a b c) = shadeAll sh m (triangleFrags da cfg f false a b c) := by
  rw [← shadeAll_unplaced, ← shadeAll_unplaced sh m (triangleFrags da cfg f false a b c), triangleFrags_eq,
    triangleFrags_eq]
  split
  · rfl
  · rw [List.map_append, List.map_append, unplaced_halfFrags ⟨true, 0⟩ ⟨false, 0⟩,
      unplaced_halfFrags ⟨true, 1⟩ ⟨false, 1⟩]

/-- A quad whose first triangle's pixels and second triangle's all lie in VRAM completes, the second triangle over the
VRAM that the first leaves. -/
theorem exec_quad_completes {f : PolyFlags} {c : DrawCfg} {v0 v1 v2 v3 w0 w1 w2 : Vertex} {s : State}
    (hr : s.ready = true) (hw : WellFormed (.quad f c v0 v1 v2 v3) = true)
    (hsecond : quadSecond s.params.quadOrder v1 v2 v3 = (w0, w1, w2))
    (hin : ∀ g ∈ triangleFrags s.da c f false v0 v1 v2, inVram g.x g.y = true)
    (hin' : ∀ g ∈ triangleFrags s.da c f true w0 w1 w2, inVram g.x g.y = true) :
    exec (.quad f c v0 v1 v2 v3) s =
      .next { s with
        mem := shadeAll (polyShader f c s) (shadeAll (polyShader f c s) s.mem (triangleFrags s.da c f false v0 v1 v2))
          (triangleFrags s.da c f false w0 w1 w2)
        cl := none
        seq := .idle } := by
  obtain ⟨hseq, hset⟩ : s.seq = .idle ∧ s.da.set = true := by simpa [State.ready] using hr
  have hfrags : quadFrags s.da c f s.params.quadOrder v0 v1 v2 v3 =
      triangleFrags s.da c f false v0 v1 v2 ++ triangleFrags s.da c f true w0 w1 w2 := by
    rw [quadFrags, hsecond]
  rw [← shadeAll_second, ← shadeAll_append, ← hfrags]
  exact execDraw_completes hseq hset hw (hfrags ▸ List.forall_mem_append.mpr ⟨hin, hin'⟩)

/-- A quad's second triangle, in the words of the order and in those of the command (43_triangle.md R262). -/
theorem exists_quadSecond (o : QuadOrder) (f : PolyFlags) (c : DrawCfg) (v1 v2 v3 : Vertex) :
    ∃ w0 w1 w2, quadSecond o v1 v2 v3 = (w0, w1, w2)
      ∧ (if o = .o123 then sortedOf v1 v2 v3 else sortedOf v2 v1 v3) = sortedOf w0 w1 w2
      ∧ (if o = .o123 then Instr.tri f c v1 v2 v3 else .tri f c v2 v1 v3) = .tri f c w0 w1 w2 := by
  cases o
  · exact ⟨v1, v2, v3, rfl, rfl, rfl⟩
  · exact ⟨v2, v1, v3, rfl, rfl, rfl⟩

/-- Settles O59: the quad's pixels are the two triangles', one list after the other. -/
theorem quadIsItsTwoTriangles : Obligations.QuadIsItsTwoTriangles := by
  unfold Obligations.QuadIsItsTwoTriangles
  intro f c v0 v1 v2 v3 s hready hw hcov hcov'
  obtain ⟨w0, w1, w2, hsecond, hsorted, htri⟩ := exists_quadSecond s.params.quadOrder f c v1 v2 v3
  rw [hsorted] at hcov'
  rw [htri]
  have hset : s.da.set = true := (Bool.and_eq_true_iff.mp hready).2
  have hin := inVram_of_covers (f := f) (second := false) hcov
  exact ⟨_, _, exec_tri_completes hready hw hin,
    exec_tri_completes (by simp [State.ready, hset]) hw (inVram_of_covers hcov'),
    exec_quad_completes hready hw hsecond hin (inVram_of_covers hcov'), rfl⟩

/-- Settles O60: the quad's pixels begin with the first triangle's, so its first pixel outside VRAM is the same. -/
theorem faultInTheFirstTriangleEndsTheQuad : Obligations.FaultInTheFirstTriangleEndsTheQuad := by
  unfold Obligations.FaultInTheFirstTriangleEndsTheQuad
  intro f c v0 v1 v2 v3 s t x y hready hw htri hhalted hmark
  obtain ⟨hseq, hset⟩ : s.seq = .idle ∧ s.da.set = true := by simpa [State.ready] using hready
  obtain ⟨-, ⟨hunset, -⟩ | ⟨-, hill, -⟩ | ⟨-, -, -, rfl⟩ | ⟨-, -, pre, g, post, hfrags, hin, hout, rfl⟩⟩ :=
    execDraw_cases htri
  · rw [hset] at hunset
    cases hunset
  · exact absurd (hill.symm.trans hw) Bool.false_ne_true
  · cases hhalted
  · cases hmark
    have hquad := execDraw_faults (sh := polyShader f c s) (i := .quad f c v0 v1 v2 v3)
      (post := post ++ triangleFrags s.da c f true (quadSecond s.params.quadOrder v1 v2 v3).1
        (quadSecond s.params.quadOrder v1 v2 v3).2.1 (quadSecond s.params.quadOrder v1 v2 v3).2.2) hseq hset hw hin hout
    rw [← List.cons_append, ← List.append_assoc, ← hfrags] at hquad
    exact hquad

end Sys2Proof.Machine

/-!
SUPPORT. The proof of the family "control" (44_control.md): the next state of SETAREA.
-/

namespace Sys2Proof.Machine

/-- Settles O21: the latched command is running when it writes `DA`, so its end returns the engine to IDLE. -/
theorem setareaWritesTheArea : Obligations.SetareaWritesTheArea := by
  unfold Obligations.SetareaWritesTheArea
  intro l t r b s hs
  have hrun : ((s.latch (.setarea l t r b)).writeArea l t r b).seq ≠ .halted := by simp
  calc exec (.setarea l t r b) s
      = .next ((s.latch (.setarea l t r b)).writeArea l t r b).finish := whenIdle_idle hs
    _ = _ := by rw [State.finish_of_not_halted _ hrun]; rfl

end Sys2Proof.Machine

/-!
SUPPORT. The proofs of the family "exceptions" (60_exceptions.md): what a step from a halted engine can do, the one
outcome of every command, and the precise fault.
-/

namespace Sys2Proof.Machine

open Sys2Proof.Config

/-! ### A step from a halted engine (60_exceptions.md R303, R304, 70_reset_and_hazards.md R333) -/

/-- Under the invariant a block that holds a mark is halted. -/
theorem State.Inv.halted_of_marked {s : State} (h : s.Inv) (hm : s.fault ≠ none ∨ s.refused ≠ none) :
    s.seq = .halted := by
  obtain ⟨-, -, -, hmarks, -, -⟩ := h
  exact hmarks.mpr hm

/-- The only step of a halted engine that is not the HOST's reset is the HOST's write of a VRAM word. -/
theorem step_of_halted_is_hostWrite {s t : State} (hs : s.seq = .halted) (h : step s = .next t)
    (hreset : ∀ rest, s.host ≠ .reset :: rest) : ∃ x y v rest, t = (s.withHost rest).hostWrite x y v := by
  rcases step_next_cases h with ⟨-, rest, hh, -⟩ | ⟨-, x, y, v, rest, -, ht⟩ | ⟨hidle, -⟩ | ⟨hidle, -⟩
  · exact absurd hh (hreset rest)
  · exact ⟨x, y, v, rest, ht⟩
  · cases hs.symm.trans hidle
  · cases hs.symm.trans hidle

/-- A step of a halted engine that is not the HOST's reset keeps it halted, with both marks. -/
theorem step_of_halted_keeps_marks {s t : State} (hs : s.seq = .halted) (h : step s = .next t)
    (hreset : ∀ rest, s.host ≠ .reset :: rest) : t.seq = .halted ∧ t.fault = s.fault ∧ t.refused = s.refused := by
  obtain ⟨x, y, v, rest, rfl⟩ := step_of_halted_is_hostWrite hs h hreset
  exact ⟨hs, rfl, rfl⟩

/-- Settles O6: under the invariant a mark is set on a halted engine alone, and such an engine takes VRAM writes alone. -/
theorem onlyResetLeavesHaltedOrClearsAMark : Obligations.OnlyResetLeavesHaltedOrClearsAMark := by
  unfold Obligations.OnlyResetLeavesHaltedOrClearsAMark
  intro s t hI h hreset
  refine ⟨fun hs => ?_, fun hfault => ?_, fun hrefused => ?_⟩
  · obtain ⟨hhalted, -, -⟩ := step_of_halted_keeps_marks hs h hreset
    exact hhalted
  · obtain ⟨-, hkept, -⟩ := step_of_halted_keeps_marks (hI.halted_of_marked (.inl hfault)) h hreset
    exact hkept
  · obtain ⟨-, -, hkept⟩ := step_of_halted_keeps_marks (hI.halted_of_marked (.inr hrefused)) h hreset
    exact hkept

/-! ### The outcome of a command (60_exceptions.md R300, R301) -/

section
variable {i : Instr} {s t : State} (h : exec i s = .next t)
include h

theorem commandOutcome_of_refused {m : RefusalMark} (hr : t.refused = some m) :
    commandOutcome i s = some (.refused m.reason) := by
  simp [commandOutcome, h, hr]

theorem commandOutcome_of_faulted {m : FaultMark} (hr : t.refused = none) (hf : t.fault = some m) :
    commandOutcome i s = some (.faulted m.x m.y) := by
  simp [commandOutcome, h, hr, hf]

theorem commandOutcome_of_unmarked (hr : t.refused = none) (hf : t.fault = none) :
    commandOutcome i s = some (if droppedWhole s.params i then .dropped else .completed) := by
  simp [commandOutcome, h, hr, hf]

end

/-- A command that R301 drops whole shades no pixel. -/
theorem fragsOf_of_droppedWhole {p : Params} {i : Instr} (da : DrawArea) (h : droppedWhole p i = true) :
    fragsOf p da i = [] := by
  cases i with
  | rect => cases h
  | line f c p0 p1 => exact if_pos h
  | tri f c v0 v1 v2 => exact if_pos h
  | quad f c v0 v1 v2 v3 =>
    obtain ⟨hfirst, hsecond⟩ := Bool.and_eq_true_iff.mp h
    exact List.append_eq_nil_iff.mpr ⟨if_pos hfirst, if_pos hsecond⟩
  | setarea => cases h

/-- The end of a command leaves a clean block as it is. -/
theorem State.Clean.ended_eq {s : State} (hc : s.Clean) : { s with cl := none, seq := .idle } = s := by
  obtain ⟨hseq, hcl, -, -⟩ := hc
  rw [← hseq, ← hcl]

/-- A refusal of a clean block changes the mark and the sequencer alone: its latch was empty already. -/
theorem State.Clean.refuse_eq {s : State} (hc : s.Clean) (r : RefReason) :
    s.refuse r = { s with refused := some ⟨r, s.recordIndex⟩, seq := .halted } := by
  obtain ⟨-, hcl, -, -⟩ := hc
  unfold State.refuse
  rw [hcl]

/-- What each outcome of the command `i` from `s` says of its next state `t` (60_exceptions.md R300). -/
def OutcomeShows (i : Instr) (s t : State) : CmdOutcome → Prop
  | .completed => t.seq = .idle ∧ t.fault = none ∧ t.refused = none ∧ t.cl = none
  | .dropped => t = s
  | .refused r => t = { s with refused := some ⟨r, s.recordIndex⟩, seq := .halted }
  | .faulted x y =>
    t.seq = .halted ∧ t.fault = some ⟨.outOfVram, x, y, i.kind⟩ ∧ t.refused = none ∧ t.da = s.da ∧ t.cl = none

/-- The command `i` from `s` has an outcome, and its next state `t` is as that outcome says. -/
def HasOutcome (i : Instr) (s t : State) : Prop := ∃ o, commandOutcome i s = some o ∧ OutcomeShows i s t o

section
variable {i : Instr} {s t : State} (hc : s.Clean) (h : exec i s = .next t)
include hc h

theorem State.Clean.hasOutcome_of_refuse {r : RefReason} (ht : t = s.refuse r) : HasOutcome i s t := by
  subst ht
  exact ⟨.refused r, commandOutcome_of_refused h rfl, hc.refuse_eq r⟩

/-- A draw whose pixels all lie in VRAM is dropped, and then has no pixels, or completes. -/
theorem State.Clean.hasOutcome_of_drawn {sh : Shader}
    (ht : t = { s with mem := shadeAll sh s.mem (fragsOf s.params s.da i), cl := none, seq := .idle }) :
    HasOutcome i s t := by
  subst ht
  have ⟨_, _, hfault, hrefused⟩ := hc
  have ho := commandOutcome_of_unmarked h hrefused hfault
  cases hdrop : droppedWhole s.params i with
  | true =>
    refine ⟨.dropped, by rw [ho, hdrop]; rfl, ?_⟩
    rw [fragsOf_of_droppedWhole s.da hdrop, shadeAll_nil]
    exact hc.ended_eq
  | false => exact ⟨.completed, by rw [ho, hdrop]; rfl, rfl, hfault, hrefused, rfl⟩

/-- Every command that a clean block takes has an outcome, whichever end it comes to. -/
theorem State.Clean.hasOutcome : HasOutcome i s t := by
  have ⟨_, _, hfault, hrefused⟩ := hc
  obtain ⟨-, ⟨l, u, r, b, rfl, -⟩ | ⟨c, -, hdraw⟩⟩ := exec_next_cases h
  · obtain rfl := exec_setarea_next h
    exact ⟨.completed, commandOutcome_of_unmarked h hrefused hfault, rfl, hfault, hrefused, rfl⟩
  · rcases hdraw with ⟨-, ht⟩ | ⟨-, -, ht⟩ | ⟨-, -, -, ht⟩ | ⟨-, -, pre, g, post, -, -, -, rfl⟩
    · exact hc.hasOutcome_of_refuse h ht
    · exact hc.hasOutcome_of_refuse h ht
    · exact hc.hasOutcome_of_drawn h ht
    · exact ⟨.faulted g.x g.y, commandOutcome_of_faulted h hrefused rfl, rfl, rfl, hrefused, rfl, rfl⟩

end

/-- Settles O23: under the invariant an idle block is clean, and takes every command. -/
theorem everyCommandHasOneOutcome : Obligations.EveryCommandHasOneOutcome := by
  unfold Obligations.EveryCommandHasOneOutcome
  intro i s hI hs
  obtain ⟨t, h⟩ := exec_idle_next i hs
  obtain ⟨o, ho, hshows⟩ := (hI.clean hs).hasOutcome h
  exact ⟨t, o, h, ho, by cases o <;> exact hshows⟩

/-! ### The precise fault (60_exceptions.md R303) -/

/-- A halted state is not the final state of a run (70_reset_and_hazards.md R338). -/
theorem not_final_of_halted {s : State} (h : s.seq = .halted) : ¬s.Final := by
  rintro ⟨hidle, -⟩
  cases h.symm.trans hidle

/-- Settles O28: the first pixel outside VRAM ends the draw in `takeFault`, which halts the engine. -/
theorem faultIsPreciseAtThePixel : Obligations.FaultIsPreciseAtThePixel := by
  unfold Obligations.FaultIsPreciseAtThePixel
  intro i c s pre post g hc hready hw hfrags hin hout
  obtain ⟨hseq, hset⟩ : s.seq = .idle ∧ s.da.set = true := by simpa [State.ready] using hready
  have hfault : exec i s =
      .next ((s.withMem (shadeAll (shaderOf i s.params c) s.mem pre)).takeFault i.kind g.x g.y) := by
    rw [exec_draw s hc, hfrags]
    exact execDraw_faults hseq hset hw hin hout
  refine ⟨hfault, fun t ht => ?_⟩
  have hhalted : t.seq = .halted := by
    cases hfault.symm.trans ht
    rfl
  refine ⟨fun j => exec_of_halted j hhalted, not_final_of_halted hhalted, fun u hu hreset => ?_⟩
  obtain ⟨hseq', hmark, -⟩ := step_of_halted_keeps_marks hhalted hu hreset
  exact ⟨hmark, hseq'⟩

end Sys2Proof.Machine

/-!
SUPPORT. The proof of the family "reset and hazards" (70_reset_and_hazards.md): the step that takes the HOST's reset.
-/

namespace Sys2Proof.Machine

/-- The HOST's reset is taken while no command runs, on a halted engine too (70_reset_and_hazards.md R330, R333). -/
theorem step_reset {s : State} {rest : List HostAction} (hs : s.seq = .idle ∨ s.seq = .halted)
    (hh : s.host = .reset :: rest) : step s = .next (s.withHost rest).hostReset := by
  unfold step hostStep
  rcases hs with hs | hs <;> rw [hs, hh]

/-- Settles O2: the reset's next state is `hostReset` of the rest of the queue; a busy engine takes no action at all.
The kept queue and stream position are the model's choice (log 6, log 18). -/
theorem hostResetClearsAllButVram : Obligations.HostResetClearsAllButVram := by
  unfold Obligations.HostResetClearsAllButVram
  intro s rest hh
  refine ⟨fun hs => ?_, fun p hbusy => step_of_busy hbusy⟩
  exact ⟨_, step_reset hs hh, State.hostReset_clean _, rfl, rfl, rfl, rfl, rfl⟩

end Sys2Proof.Machine
